-- ==== Sys2Proof/Word.lean ====
section
/-!
DEFINITION. The word types of the core. All values are unsigned and bit 0 is the least significant
bit (`00_scope.md` R7); their arithmetic is that of `BitVec`, which wraps.
-/

namespace Sys2Proof

/-- A 4-bit field: a register number `x` or `y`, a row count `n`, or the stack pointer. -/
abbrev Nibble := BitVec 4

/-- A general register, a timer, a memory cell, an immediate `kk`. -/
abbrev Byte := BitVec 8

/-- The 12-bit address operand `nnn`. -/
abbrev Addr12 := BitVec 12

/-- An opcode word, `I`, `pc`, a stack entry, `FAULT_INFO`, the key snapshot. -/
abbrev Word := BitVec 16

/-- A 4-bit field always selects one of 16 registers or stack entries (`10_state.md` R21, R31). -/
theorem nibble_lt (x : Nibble) : x.toNat < 16 := x.isLt

end Sys2Proof
end

