-- ==== Sys2Proof/Syntax.lean ====
section
/-!
DEFINITION. The instructions: one constructor per row of `spec/opcode_table.json`, 34 recognised
instructions and the no-operation (`30_encoding.md` R76). Operand fields are those of R71.
-/

namespace Sys2Proof

/-- A decoded instruction ("a closed set of tagged instruction variants", R81). `nop` keeps the
whole unrecognised word and the shifts keep their ignored `y` field, so that no bit of a word is lost
by decoding (R82; log entry 11). -/
inductive Instr where
  /-- 00E0 `CLS` -/
  | cls
  /-- 00EE `RET` -/
  | ret
  /-- 1NNN `JP nnn` -/
  | jp (nnn : Addr12)
  /-- 2NNN `CALL nnn` -/
  | call (nnn : Addr12)
  /-- 3XNN `SE Vx, kk` -/
  | seImm (x : Nibble) (kk : Byte)
  /-- 4XNN `SNE Vx, kk` -/
  | sneImm (x : Nibble) (kk : Byte)
  /-- 5XY0 `SE Vx, Vy` -/
  | seReg (x y : Nibble)
  /-- 6XNN `LD Vx, kk` -/
  | ldImm (x : Nibble) (kk : Byte)
  /-- 7XNN `ADD Vx, kk` -/
  | addImm (x : Nibble) (kk : Byte)
  /-- 8XY0 `LD Vx, Vy` -/
  | ldReg (x y : Nibble)
  /-- 8XY1 `OR Vx, Vy` -/
  | orReg (x y : Nibble)
  /-- 8XY2 `AND Vx, Vy` -/
  | andReg (x y : Nibble)
  /-- 8XY3 `XOR Vx, Vy` -/
  | xorReg (x y : Nibble)
  /-- 8XY4 `ADD Vx, Vy` -/
  | addReg (x y : Nibble)
  /-- 8XY5 `SUB Vx, Vy` -/
  | subReg (x y : Nibble)
  /-- 8XY6 `SHR Vx`; `y` is decoded and ignored -/
  | shr (x y : Nibble)
  /-- 8XY7 `SUBN Vx, Vy` -/
  | subnReg (x y : Nibble)
  /-- 8XYE `SHL Vx`; `y` is decoded and ignored -/
  | shl (x y : Nibble)
  /-- 9XY0 `SNE Vx, Vy` -/
  | sneReg (x y : Nibble)
  /-- ANNN `LD I, nnn` -/
  | ldI (nnn : Addr12)
  /-- BNNN `JP V0, nnn` -/
  | jpV0 (nnn : Addr12)
  /-- CXNN `RND Vx, kk` -/
  | rnd (x : Nibble) (kk : Byte)
  /-- DXYN `DRW Vx, Vy, n` -/
  | drw (x y n : Nibble)
  /-- EX9E `SKP Vx` -/
  | skp (x : Nibble)
  /-- EXA1 `SKNP Vx` -/
  | sknp (x : Nibble)
  /-- FX07 `LD Vx, DT` -/
  | ldVxDT (x : Nibble)
  /-- FX0A `LD Vx, K` -/
  | ldVxK (x : Nibble)
  /-- FX15 `LD DT, Vx` -/
  | ldDTVx (x : Nibble)
  /-- FX18 `LD ST, Vx` -/
  | ldSTVx (x : Nibble)
  /-- FX1E `ADD I, Vx` -/
  | addIVx (x : Nibble)
  /-- FX29 `LD F, Vx` -/
  | ldFVx (x : Nibble)
  /-- FX33 `LD B, Vx` -/
  | ldBVx (x : Nibble)
  /-- FX55 `LD [I], Vx` -/
  | ldMemVx (x : Nibble)
  /-- FX65 `LD Vx, [I]` -/
  | ldVxMem (x : Nibble)
  /-- every unrecognised word, kept as it was fetched: `NOP` -/
  | nop (op : Word)
  deriving DecidableEq, Repr

end Sys2Proof
end

