-- ==== Sys2Proof/Decode.lean ====
section
/-!
DEFINITION. The decoder (`30_encoding.md` R70 to R75, R81), the opcode map as a table of masks and
matches (R76), and the encoder (R73, R82). The numbers are the spec's, which takes them from general
knowledge of CHIP-8 (decision D2; log entries 6 and 7).
-/

namespace Sys2Proof

/-! ### Fields (R71) -/

/-- `f` = op[15:12], the family. -/
def fieldF (op : Word) : Nibble := op.extractLsb' 12 4

/-- `x` = op[11:8]. -/
def fieldX (op : Word) : Nibble := op.extractLsb' 8 4

/-- `y` = op[7:4]. -/
def fieldY (op : Word) : Nibble := op.extractLsb' 4 4

/-- `n` = op[3:0]. -/
def fieldN (op : Word) : Nibble := op.extractLsb' 0 4

/-- `kk` = op[7:0]. -/
def fieldKK (op : Word) : Byte := op.extractLsb' 0 8

/-- `nnn` = op[11:0]. -/
def fieldNNN (op : Word) : Addr12 := op.extractLsb' 0 12

/-! ### Byte order (R51, R70) -/

/-- The opcode made of the byte at the lower address and the byte after it: high byte first. -/
def wordOfBytes (hi lo : Byte) : Word := hi ++ lo

/-- The byte of `op` that lies at the lower address. -/
def highByte (op : Word) : Byte := op.extractLsb' 8 8

/-- The byte of `op` that lies at the higher address. -/
def lowByte (op : Word) : Byte := op.extractLsb' 0 8

/-! ### The decoder (R81) -/

/-- Family 0: only the two whole words 00E0 and 00EE are instructions. -/
def decodeSystem (op : Word) : Instr :=
  if op = 0x00E0 then .cls else if op = 0x00EE then .ret else .nop op

/-- Family 8: the low nibble selects the operation; n in 8..D and F is no instruction. -/
def decodeAlu (op : Word) : Instr :=
  let x := fieldX op
  let y := fieldY op
  match fieldN op with
  | 0x0#4 => .ldReg x y
  | 0x1#4 => .orReg x y
  | 0x2#4 => .andReg x y
  | 0x3#4 => .xorReg x y
  | 0x4#4 => .addReg x y
  | 0x5#4 => .subReg x y
  | 0x6#4 => .shr x y
  | 0x7#4 => .subnReg x y
  | 0xE#4 => .shl x y
  | _ => .nop op

/-- Family E: the low byte selects the key test. -/
def decodeKey (op : Word) : Instr :=
  match fieldKK op with
  | 0x9E#8 => .skp (fieldX op)
  | 0xA1#8 => .sknp (fieldX op)
  | _ => .nop op

/-- Family F: the low byte selects the operation. -/
def decodeMisc (op : Word) : Instr :=
  let x := fieldX op
  match fieldKK op with
  | 0x07#8 => .ldVxDT x
  | 0x0A#8 => .ldVxK x
  | 0x15#8 => .ldDTVx x
  | 0x18#8 => .ldSTVx x
  | 0x1E#8 => .addIVx x
  | 0x29#8 => .ldFVx x
  | 0x33#8 => .ldBVx x
  | 0x55#8 => .ldMemVx x
  | 0x65#8 => .ldVxMem x
  | _ => .nop op

/-- The decoder: total over all 65536 words, reading no state (R72); dispatch is by the high nibble
(R75). A word that matches no row is `nop` (R170). -/
def decode (op : Word) : Instr :=
  match fieldF op with
  | 0x0#4 => decodeSystem op
  | 0x1#4 => .jp (fieldNNN op)
  | 0x2#4 => .call (fieldNNN op)
  | 0x3#4 => .seImm (fieldX op) (fieldKK op)
  | 0x4#4 => .sneImm (fieldX op) (fieldKK op)
  | 0x5#4 => if fieldN op = 0 then .seReg (fieldX op) (fieldY op) else .nop op
  | 0x6#4 => .ldImm (fieldX op) (fieldKK op)
  | 0x7#4 => .addImm (fieldX op) (fieldKK op)
  | 0x8#4 => decodeAlu op
  | 0x9#4 => if fieldN op = 0 then .sneReg (fieldX op) (fieldY op) else .nop op
  | 0xA#4 => .ldI (fieldNNN op)
  | 0xB#4 => .jpV0 (fieldNNN op)
  | 0xC#4 => .rnd (fieldX op) (fieldKK op)
  | 0xD#4 => .drw (fieldX op) (fieldY op) (fieldN op)
  | 0xE#4 => decodeKey op
  | _ => decodeMisc op

/-- Why a list of bytes holds no instruction. -/
inductive DecodeError where
  /-- Fewer than two bytes are left; no word itself is ever rejected (R72). The model's own (log entry
  26): the step never raises it, for a fetch has two bytes or faults (R92). Safe. -/
  | truncated
  deriving DecidableEq, Repr

/-- Reads one instruction from a list of bytes, lowest address first, and returns the bytes after
it (R51, R70; log entry 26). -/
def decodeBytes : List Byte → Except DecodeError (Instr × List Byte)
  | hi :: lo :: rest => .ok (decode (wordOfBytes hi lo), rest)
  | _ => .error .truncated

/-- The instruction read from an instruction whose bits are `w`, bit 0 the least significant bit of
its one word; bits from `nbits` on are 0. The word is laid out big-endian and given to the decoder. -/
def decodeTableWord (nbits w : Nat) : Option Instr :=
  let op : Word := BitVec.ofNat 16 (w % 2 ^ nbits)
  match decodeBytes [highByte op, lowByte op] with
  | .ok (i, _) => some i
  | .error _ => none

/-! ### The opcode map as masks and matches (R75, R76) -/

/-- One row of the opcode map: a word belongs to it when its bits under `mask` equal `value`. -/
structure OpcodeRow where
  mnemonic : String
  mask : Word
  value : Word
  deriving DecidableEq, Repr

/-- The rows of the families 0 to 7. -/
def opcodeRowsLow : List OpcodeRow :=
  [⟨"CLS", 0xFFFF, 0x00E0⟩, ⟨"RET", 0xFFFF, 0x00EE⟩, ⟨"JP_nnn", 0xF000, 0x1000⟩,
   ⟨"CALL_nnn", 0xF000, 0x2000⟩, ⟨"SE_Vx__kk", 0xF000, 0x3000⟩, ⟨"SNE_Vx__kk", 0xF000, 0x4000⟩,
   ⟨"SE_Vx__Vy", 0xF00F, 0x5000⟩, ⟨"LD_Vx__kk", 0xF000, 0x6000⟩, ⟨"ADD_Vx__kk", 0xF000, 0x7000⟩]

/-- The rows of family 8. -/
def opcodeRowsAlu : List OpcodeRow :=
  [⟨"LD_Vx__Vy", 0xF00F, 0x8000⟩, ⟨"OR_Vx__Vy", 0xF00F, 0x8001⟩, ⟨"AND_Vx__Vy", 0xF00F, 0x8002⟩,
   ⟨"XOR_Vx__Vy", 0xF00F, 0x8003⟩, ⟨"ADD_Vx__Vy", 0xF00F, 0x8004⟩, ⟨"SUB_Vx__Vy", 0xF00F, 0x8005⟩,
   ⟨"SHR_Vx", 0xF00F, 0x8006⟩, ⟨"SUBN_Vx__Vy", 0xF00F, 0x8007⟩, ⟨"SHL_Vx", 0xF00F, 0x800E⟩]

/-- The rows of the families 9 to E. -/
def opcodeRowsHigh : List OpcodeRow :=
  [⟨"SNE_Vx__Vy", 0xF00F, 0x9000⟩, ⟨"LD_I__nnn", 0xF000, 0xA000⟩, ⟨"JP_V0__nnn", 0xF000, 0xB000⟩,
   ⟨"RND_Vx__kk", 0xF000, 0xC000⟩, ⟨"DRW_Vx__Vy__n", 0xF000, 0xD000⟩, ⟨"SKP_Vx", 0xF0FF, 0xE09E⟩,
   ⟨"SKNP_Vx", 0xF0FF, 0xE0A1⟩]

/-- The rows of family F. -/
def opcodeRowsMisc : List OpcodeRow :=
  [⟨"LD_Vx__DT", 0xF0FF, 0xF007⟩, ⟨"LD_Vx__K", 0xF0FF, 0xF00A⟩, ⟨"LD_DT__Vx", 0xF0FF, 0xF015⟩,
   ⟨"LD_ST__Vx", 0xF0FF, 0xF018⟩, ⟨"ADD_I__Vx", 0xF0FF, 0xF01E⟩, ⟨"LD_F__Vx", 0xF0FF, 0xF029⟩,
   ⟨"LD_B__Vx", 0xF0FF, 0xF033⟩, ⟨"LD__I___Vx", 0xF0FF, 0xF055⟩, ⟨"LD_Vx___I", 0xF0FF, 0xF065⟩]

/-- The 34 recognised rows. -/
def opcodeRows : List OpcodeRow :=
  opcodeRowsLow ++ opcodeRowsAlu ++ opcodeRowsHigh ++ opcodeRowsMisc

/-- A word is in a row "exactly when (op AND mask) = match" (R75). -/
def OpcodeRow.covers (r : OpcodeRow) (op : Word) : Bool := op &&& r.mask == r.value

/-- The word is one of the 43954 recognised ones (R75, R77). -/
def recognised (op : Word) : Bool := opcodeRows.any fun r => r.covers op

/-! ### The encoder (R73, R82) -/

/-- Format `NNN`: family, address. -/
def formatNNN (f : Nibble) (nnn : Addr12) : Word := f ++ nnn

/-- Formats `XKK` and `X`: family, register, low byte. -/
def formatXKK (f x : Nibble) (kk : Byte) : Word := f ++ x ++ kk

/-- Formats `XYN` and `XY`: family, two registers, low nibble. -/
def formatXYN (f x y n : Nibble) : Word := f ++ x ++ y ++ n

/-- The word of an instruction (R82). -/
def encode : Instr → Word
  | .cls => 0x00E0
  | .ret => 0x00EE
  | .jp nnn => formatNNN 0x1 nnn
  | .call nnn => formatNNN 0x2 nnn
  | .seImm x kk => formatXKK 0x3 x kk
  | .sneImm x kk => formatXKK 0x4 x kk
  | .seReg x y => formatXYN 0x5 x y 0x0
  | .ldImm x kk => formatXKK 0x6 x kk
  | .addImm x kk => formatXKK 0x7 x kk
  | .ldReg x y => formatXYN 0x8 x y 0x0
  | .orReg x y => formatXYN 0x8 x y 0x1
  | .andReg x y => formatXYN 0x8 x y 0x2
  | .xorReg x y => formatXYN 0x8 x y 0x3
  | .addReg x y => formatXYN 0x8 x y 0x4
  | .subReg x y => formatXYN 0x8 x y 0x5
  | .shr x y => formatXYN 0x8 x y 0x6
  | .subnReg x y => formatXYN 0x8 x y 0x7
  | .shl x y => formatXYN 0x8 x y 0xE
  | .sneReg x y => formatXYN 0x9 x y 0x0
  | .ldI nnn => formatNNN 0xA nnn
  | .jpV0 nnn => formatNNN 0xB nnn
  | .rnd x kk => formatXKK 0xC x kk
  | .drw x y n => formatXYN 0xD x y n
  | .skp x => formatXKK 0xE x 0x9E
  | .sknp x => formatXKK 0xE x 0xA1
  | .ldVxDT x => formatXKK 0xF x 0x07
  | .ldVxK x => formatXKK 0xF x 0x0A
  | .ldDTVx x => formatXKK 0xF x 0x15
  | .ldSTVx x => formatXKK 0xF x 0x18
  | .addIVx x => formatXKK 0xF x 0x1E
  | .ldFVx x => formatXKK 0xF x 0x29
  | .ldBVx x => formatXKK 0xF x 0x33
  | .ldMemVx x => formatXKK 0xF x 0x55
  | .ldVxMem x => formatXKK 0xF x 0x65
  | .nop op => op

end Sys2Proof
end

