-- ==== Sys2Proof/Config.lean ====
section
/-!
DEFINITION. The sizes the source fixes (`00_scope.md` R6) and the two free values of the model: the
key snapshot and the random byte of a step for which no input has been fixed beforehand
(`10_state.md` R38 and R39, `93_implementation_defined.md` U9 and U10; log entry 1). The two named
parameters with a default, `GLYPH_TABLE` and `PC_RESET`, are in `Machine/Parameters.lean`.
-/

namespace Sys2Proof.Config

/-- MEM_SIZE: addresses 0..4095 (R6, R50). -/
def memSize : Nat := 4096

/-- The greatest `pc` from which two bytes can be fetched (R26, R92). -/
def maxFetch : Nat := 4094

/-- PROGRAM_BASE: where the host loads a program (R6, R205). -/
def programBase : Nat := 0x200

/-- ROM_MAX: the longest program image (R6, R206). -/
def romMax : Nat := 3584

/-- GLYPH_HEIGHT: the bytes of one glyph; GLYPH_BASE is 0 (R6, R57). -/
def glyphHeight : Nat := 5

/-- FREE VALUE. The keys the host presents with the `k`-th sampled step. Nothing constrains it
(U10: any value; log entry 1). -/
opaque freeKeys : Nat → Word

/-- FREE VALUE. The random byte the host presents with the `k`-th sampled step. Nothing constrains
it (U9: any value, under no law; log entry 1). -/
opaque freeRnd : Nat → Byte

end Sys2Proof.Config
end

