-- ==== Sys2Proof/Machine/Parameters.lean ====
section
/-!
DEFINITION. The two named parameters of the machine that have a default in the spec (`00_scope.md`
R6): `GLYPH_TABLE` (`20_memory.md` R58, decision D19, log entry 4) and `PC_RESET` (decision D18, log
entry 5); and what a byte of memory holds after reset (`10_state.md` R40).
-/

namespace Sys2Proof.Config

/-- The glyphs of the symbols 0 to 7, top row first (R58). -/
def glyphsLow : List Byte :=
  [0xF0, 0x90, 0x90, 0x90, 0xF0] ++ [0x20, 0x60, 0x20, 0x20, 0x70] ++
  [0xF0, 0x10, 0xF0, 0x80, 0xF0] ++ [0xF0, 0x10, 0xF0, 0x10, 0xF0] ++
  [0x90, 0x90, 0xF0, 0x10, 0x10] ++ [0xF0, 0x80, 0xF0, 0x10, 0xF0] ++
  [0xF0, 0x80, 0xF0, 0x90, 0xF0] ++ [0xF0, 0x10, 0x20, 0x40, 0x40]

/-- The glyphs of the symbols 8 to F, top row first (R58). -/
def glyphsHigh : List Byte :=
  [0xF0, 0x90, 0xF0, 0x90, 0xF0] ++ [0xF0, 0x90, 0xF0, 0x10, 0xF0] ++
  [0xF0, 0x90, 0xF0, 0x90, 0x90] ++ [0xE0, 0x90, 0xE0, 0x90, 0xE0] ++
  [0xF0, 0x80, 0x80, 0x80, 0xF0] ++ [0xE0, 0x90, 0x90, 0x90, 0xE0] ++
  [0xF0, 0x80, 0xF0, 0x80, 0xF0] ++ [0xF0, 0x80, 0xF0, 0x80, 0x80]

/-- `GLYPH_TABLE`, the default 80 bytes of R58. DESIGN CHOICE: the spec leaves the table open and
names this default (log entry 4). -/
def glyphTable : List Byte := glyphsLow ++ glyphsHigh

/-- What address `a` holds after reset: the glyph table at 0..79, 0 elsewhere (R40). -/
def resetByte (a : Nat) : Byte := (glyphTable[a]?).getD 0

/-- `PC_RESET` (R40, decision D18). UNVERIFIED: the spec's own choice (log entry 5). -/
def pcReset : Word := 0x200

end Sys2Proof.Config
end

