-- ==== Sys2Proof/Machine/Memory.lean ====
section
/-!
DEFINITION. Main memory (`20_memory.md` R50): the cells that differ from the reset contents, as a
list of address and byte in one canonical form, and the operations on it (log entry 13). The bounds
check of R53 is made by the meanings, before any access (`Operands.lean`).
-/

namespace Sys2Proof.Machine

/-- Memory as the list of its cells that do not hold their reset value, addresses strictly rising. -/
abbrev Memory := List Host.Cell

/-- The listed byte at an address, if it is listed. -/
def Memory.lookup : Memory → Nat → Option Byte
  | [], _ => none
  | (k, b) :: m, a => if k = a then some b else Memory.lookup m a

/-- `MemRead(a, 1)` (R8): an unlisted address holds its reset contents (R40, R60). -/
def Memory.read (m : Memory) (a : Nat) : Byte := (Memory.lookup m a).getD (Config.resetByte a)

/-- Puts a cell before the cells `m`, all above `a`, unless it would repeat the reset contents. -/
def Memory.cell (a : Nat) (b : Byte) (m : Memory) : Memory :=
  if b = Config.resetByte a then m else (a, b) :: m

/-- `MemWrite(a, 1, b)` (R8), in canonical form. -/
def Memory.write : Memory → Nat → Byte → Memory
  | [], a, b => Memory.cell a b []
  | (k, c) :: m, a, b =>
    if a < k then Memory.cell a b ((k, c) :: m)
    else if a = k then Memory.cell a b m
    else (k, c) :: Memory.write m a b

/-- The cells lie at `lo` or above, strictly rising, inside the address space, and none holds its
reset contents. -/
def Memory.wfFrom : Nat → Memory → Bool
  | _, [] => true
  | lo, (k, b) :: m =>
    decide (lo ≤ k) && decide (k < Config.memSize) && decide (b ≠ Config.resetByte k) &&
      Memory.wfFrom (k + 1) m

/-- The canonical form. -/
def Memory.wf (m : Memory) : Bool := Memory.wfFrom 0 m

/-- The `n` bytes at `base`, `base + 1`, …, lowest address first. -/
def Memory.readBytes (m : Memory) (base n : Nat) : List Byte :=
  (List.range n).map fun k => Memory.read m (base + k)

/-- Stores bytes at `base`, `base + 1`, …, in that order. -/
def Memory.writeBytes : Memory → Nat → List Byte → Memory
  | m, _, [] => m
  | m, base, b :: bs => Memory.writeBytes (Memory.write m base b) (base + 1) bs

end Sys2Proof.Machine
end

