-- ==== Sys2Proof/Machine/State.lean ====
section
/-!
DEFINITION. The state of the core, exactly the fields of `10_state.md` R20, and the two fields of the
model's own through which the inputs of a step reach it (R38, R39; log entries 1 and 2); the state
after reset (R40); the reasons an outcome other than a next state could carry.
-/

namespace Sys2Proof.Machine

/-- `FAULT` (R30, `60_exceptions.md` R181): running, or halted on one of five faults. Its 3-bit code
is `FaultCode.code` (log entry 10). -/
inductive FaultCode where
  /-- 0: the machine is running -/
  | none
  /-- 1: at fetch, `pc` > 4094 -/
  | pcOutOfBounds
  /-- 2: a data access at 4096 or above -/
  | memOutOfBounds
  /-- 3: `CALL` with `SP` = 15 -/
  | stackOverflow
  /-- 4: `RET` with `SP` = 0 -/
  | stackUnderflow
  /-- 5: `SKP` or `SKNP` with `V[x]` > 15 -/
  | keyIndexOutOfRange
  deriving DecidableEq, Repr

/-- What the host presents with one step: bit `k` of `keys` is `keys[k]` (R38), and `rnd` (R39). -/
structure Input where
  keys : Word
  rnd : Byte
  deriving DecidableEq, Repr

/-- `FB[y][x]` (R33): 32 rows from the top, 64 columns from the left, `true` = on. -/
abbrev Framebuffer := Vector (Vector Bool 64) 32

/-- The state (R20). -/
structure State where
  /-- `MEM` (R50) -/
  mem : Memory
  /-- `V[0..15]`; `V[15]` is `VF` (R21, R23) -/
  v : Vector Byte 16
  /-- `I`, the index register (R27) -/
  i : Word
  /-- `pc` (R24) -/
  pc : Word
  /-- `STACK[0..15]` (R31) -/
  stack : Vector Word 16
  /-- `SP` (R31) -/
  sp : Nibble
  /-- `FB` (R33) -/
  fb : Framebuffer
  /-- `DRAW` (R29) -/
  draw : Bool
  /-- `DT`, the delay timer (R28) -/
  dt : Byte
  /-- `ST`, the sound timer (R28) -/
  st : Byte
  /-- `FAULT` (R30) -/
  fault : FaultCode
  /-- `FAULT_INFO` (R30) -/
  faultInfo : Word
  /-- MODEL'S OWN: the inputs already fixed for the coming steps, oldest first (log entry 1) -/
  inputs : List Input
  /-- MODEL'S OWN: how many steps have sampled an input; indexes the free values (log entry 1) -/
  inputNo : Nat
  deriving DecidableEq, Repr

/-- The machine right after reset (R40, `70_reset_and_hazards.md` R200). No input is fixed. -/
def State.reset : State where
  mem := []
  v := Vector.replicate 16 0
  i := 0
  pc := Config.pcReset
  stack := Vector.replicate 16 0
  sp := 0
  fb := Vector.replicate 32 (Vector.replicate 64 false)
  draw := false
  dt := 0
  st := 0
  fault := .none
  faultInfo := 0
  inputs := []
  inputNo := 0

/-- Reasons a step could end without a next state and stop the model. There are none: every fault of
the spec writes `FAULT` and `FAULT_INFO` and is a next state (`40_step_cycle.md` R97, `60_exceptions.md`
R183), and a halted machine answers itself (R184). Nobody raises it, which is safe (log entry 9). -/
inductive Fault
  deriving DecidableEq, Repr

/-- Reasons an instruction has no meaning in the model. -/
inductive Refusal where
  /-- Raised only by an arm of `exec` whose instruction has no meaning yet, with the mnemonic of its
  row in the opcode table. No arm does so: every row has its meaning. Safe. -/
  | notModelled (mnemonic : String)
  deriving DecidableEq, Repr

/-- What running an instruction answers. -/
abbrev Result := Host.Outcome State Fault Refusal

end Sys2Proof.Machine
end

