-- ==== Sys2Proof/Machine/Ops.lean ====
section
/-!
DEFINITION. The named operations over the state: registers, call stack, framebuffer, timers, the
inputs of a step, the phases of a step (`40_step_cycle.md` R91 to R97), and the one entry into a
fault (`60_exceptions.md` R183).
-/

namespace Sys2Proof.Machine

/-! ### General registers (R21, R23) -/

/-- Reads `V[x]`. -/
def State.reg (s : State) (x : Nibble) : Byte := s.v[x.toNat]'(nibble_lt x)

/-- Writes `V[x]`. No register is hard-wired. -/
def State.setReg (s : State) (x : Nibble) (b : Byte) : State :=
  { s with v := s.v.set x.toNat b (nibble_lt x) }

/-- Writes `V[0]` to `V[count-1]` from a list, lowest register first; the others keep their values. -/
def State.setRegsBelow (s : State) (count : Nat) (bytes : List Byte) : State :=
  { s with v := Vector.ofFn fun k : Fin 16 => if k.val < count then bytes.getD k.val 0 else s.v[k] }

/-- The values of `V[0]` to `V[count-1]`, lowest register first. -/
def State.regsBelow (s : State) (count : Nat) : List Byte := s.v.toList.take count

/-! ### Index register, program counter, timers, memory -/

/-- Writes `I` (R27). -/
def State.setIndex (s : State) (a : Word) : State := { s with i := a }

/-- `pc <- target` (R8). -/
def State.setPc (s : State) (a : Word) : State := { s with pc := a }

/-- `pc <- p + 2`, modulo 65536 (R25). -/
def State.advance (s : State) : State := s.setPc (s.pc + 2)

/-- `pc <- p + 4` if the condition holds, else `p + 2` (R25). -/
def State.skipIf (s : State) (c : Bool) : State := s.setPc (if c then s.pc + 4 else s.pc + 2)

/-- Writes `DT` (R28). -/
def State.setDelay (s : State) (b : Byte) : State := { s with dt := b }

/-- Writes `ST` (R28). -/
def State.setSound (s : State) (b : Byte) : State := { s with st := b }

/-- Replaces the memory; the meanings compute the new one with `Memory.writeBytes`. -/
def State.setMem (s : State) (m : Memory) : State := { s with mem := m }

/-! ### Call stack (R31) -/

/-- `STACK[SP]`. -/
def State.top (s : State) : Word := s.stack[s.sp.toNat]'(nibble_lt s.sp)

/-- `SP <- SP + 1`, then `STACK[SP] <- a` (R102). -/
def State.push (s : State) (a : Word) : State :=
  { s with sp := s.sp + 1, stack := s.stack.set (s.sp + 1).toNat a (nibble_lt (s.sp + 1)) }

/-- `SP <- SP - 1`; the entry keeps its contents (R100). -/
def State.pop (s : State) : State := { s with sp := s.sp - 1 }

/-! ### Framebuffer (R33) and draw flag (R29) -/

/-- A cell of the framebuffer: row from the top, column from the left. -/
abbrev Pixel := Fin 32 × Fin 64

/-- `FB[y][x]`. -/
def Framebuffer.pixel (fb : Framebuffer) (p : Pixel) : Bool := (fb[p.1])[p.2]

/-- `FB[y][x] <- FB[y][x] XOR 1` (R141). -/
def Framebuffer.flip (fb : Framebuffer) (p : Pixel) : Framebuffer :=
  fb.set p.1 ((fb[p.1]).set p.2 (!(fb[p.1])[p.2]))

/-- Every cell off (R140). -/
def Framebuffer.blank : Framebuffer := Vector.replicate 32 (Vector.replicate 64 false)

/-- Replaces the framebuffer and sets `DRAW` (R140, R141). -/
def State.display (s : State) (fb : Framebuffer) : State := { s with fb := fb, draw := true }

/-! ### Inputs of a step (R38, R39; log entry 1) -/

/-- `keys[0..15]` of this step: what is fixed for it, else a free value. -/
def State.keys (s : State) : Word :=
  match s.inputs with
  | inp :: _ => inp.keys
  | [] => Config.freeKeys s.inputNo

/-- `rnd` of this step: what is fixed for it, else a free value. -/
def State.rnd (s : State) : Byte :=
  match s.inputs with
  | inp :: _ => inp.rnd
  | [] => Config.freeRnd s.inputNo

/-- The step is over: the next one samples the next input (R90). -/
def State.nextInput (s : State) : State :=
  { s with inputs := s.inputs.tail, inputNo := s.inputNo + 1 }

/-! ### The ends of an instruction (R94) -/

/-- One timer's tick: a timer at 0 stays 0 (R95). -/
def tickDown (t : Byte) : Byte := if t = 0 then 0 else t - 1

/-- The timer tick (R95). -/
def State.tick (s : State) : State := { s with dt := tickDown s.dt, st := tickDown s.st }

/-- The instruction completed: its writes are done, the timers tick (R94 (a), R95; log entry 8). -/
def complete (s : State) : Result := .next s.tick

/-- Fault entry (R183): `FAULT` and `FAULT_INFO` are written and nothing else; `pc` keeps the address
of the faulting instruction, and control goes nowhere. -/
def State.raise (s : State) (code : FaultCode) (info : Word) : State :=
  { s with fault := code, faultInfo := info }

/-- The instruction faulted (R94 (c)): none of its writes, no tick. It is a next state (log entry 9). -/
def raiseFault (code : FaultCode) (info : Word) (s : State) : Result := .next (s.raise code info)

/-- The 3-bit code of `FAULT` (R181). -/
def FaultCode.code : FaultCode → BitVec 3
  | .none => 0
  | .pcOutOfBounds => 1
  | .memOutOfBounds => 2
  | .stackOverflow => 3
  | .stackUnderflow => 4
  | .keyIndexOutOfRange => 5

/-! ### The phases of a step around an instruction -/

/-- Phase 0 of a running machine: `DRAW <- 0` (R91). -/
def State.enter (s : State) : State := { s with draw := false }

/-- The opcode at an address: big-endian (R51). -/
def Memory.word (m : Memory) (a : Nat) : Word := wordOfBytes (Memory.read m a) (Memory.read m (a + 1))

/-- Phase 1: the opcode at `pc`, or nothing when `pc` or `pc + 1` is outside memory (R92). -/
def State.fetch (s : State) : Option Word :=
  if s.pc.toNat ≤ Config.maxFetch then some (Memory.word s.mem s.pc.toNat) else none

/-- The end of a step: the next step samples the next input, whatever this one answered. -/
def endStep : Result → Result
  | .next s => .next s.nextInput
  | .fault r => .fault r
  | .refused r => .refused r

/-- One whole step, given what executes an instruction (R97). A halted machine stays as it is (R184). -/
def runStep (execute : Instr → State → Result) (s : State) : Result :=
  if s.fault = .none then
    match s.enter.fetch with
    | some op => endStep (execute (decode op) s.enter)
    | none => endStep (raiseFault .pcOutOfBounds s.pc s.enter)
  else .next s

end Sys2Proof.Machine
end

