-- ==== Sys2Proof/Machine/Operands.lean ====
section
/-!
DEFINITION. The operand forms: immediates (`30_encoding.md` R74), "at `I` plus a small offset" with
its bounds check (`20_memory.md` R53), the key named by a register (`46_input.md` R150), and the scan
of all keys (R152).
-/

namespace Sys2Proof.Machine

/-- `zext_16` of a byte (R8). -/
def zextByte (b : Byte) : Word := b.setWidth 16

/-- `zext_16` of a 12-bit address (R74). -/
def zextAddr (nnn : Addr12) : Word := nnn.setWidth 16

/-- The fault information when an instruction would access `count` bytes at `base` and one of them
lies at 4096 or above: the lowest offending address, max(base, 4096) (R53, R181). Addresses are
unbounded sums; an instruction that makes no access never faults. -/
def dataFault (base : Word) (count : Nat) : Option Word :=
  if count ≠ 0 ∧ Config.memSize ≤ base.toNat + count - 1 then
    some (BitVec.ofNat 16 (max base.toNat Config.memSize))
  else none

/-- Checks the `count` bytes at `I` before any effect, then goes on (R53). -/
def withData (count : Nat) (s : State) (body : Result) : Result :=
  match dataFault s.i count with
  | some info => raiseFault .memOutOfBounds info s
  | none => body

/-- Checks that a byte names one of the 16 keys, then goes on (R150, R151). -/
def withKey (symbol : Byte) (s : State) (body : Result) : Result :=
  if 15 < symbol.toNat then raiseFault .keyIndexOutOfRange (zextByte symbol) s else body

/-- `keys[k]` (R38). -/
def keyDown (keys : Word) (k : Nat) : Bool := keys.getLsbD k

/-- The last key down met by a scan from 0 to 15, if any is down (R152). -/
def scanKeys (keys : Word) : Option Byte :=
  (List.range 16).foldl (fun found k => if keyDown keys k then some (BitVec.ofNat 8 k) else found) none

end Sys2Proof.Machine
end

