-- ==== Sys2Proof/Machine/Block.lean ====
section
/-!
DEFINITION. The memory block-transfer instructions (`48_memory_block.md` R160 to R162), each after the
bounds check of `20_memory.md` R53.
-/

namespace Sys2Proof.Machine

/-- Hundreds, tens, units (R160). -/
def decimalDigits (b : Byte) : List Byte :=
  [BitVec.ofNat 8 (b.toNat / 100), BitVec.ofNat 8 (b.toNat / 10 % 10), BitVec.ofNat 8 (b.toNat % 10)]

/-- `LD B, Vx` (R160): `I` is not changed. -/
def execLdBVx (x : Nibble) (s : State) : Result :=
  withData 3 s
    (complete (s.setMem (Memory.writeBytes s.mem s.i.toNat (decimalDigits (s.reg x)))).advance)

/-- `I` after a block transfer of `count` registers: one more than the count further, modulo 65536
(R161, R162; log entry 21). -/
def indexAfter (s : State) (count : Nat) : Word := s.i + BitVec.ofNat 16 (count + 1)

/-- `LD [I], Vx` (R161): `V[0]` to `V[x-1]`; `V[x]` itself is not stored. -/
def execLdMemVx (x : Nibble) (s : State) : Result :=
  withData x.toNat s
    (complete ((s.setMem (Memory.writeBytes s.mem s.i.toNat (s.regsBelow x.toNat))).setIndex
      (indexAfter s x.toNat)).advance)

/-- `LD Vx, [I]` (R162): `V[0]` to `V[x-1]`; `V[x]` itself is not loaded. -/
def execLdVxMem (x : Nibble) (s : State) : Result :=
  withData x.toNat s
    (complete ((s.setRegsBelow x.toNat (Memory.readBytes s.mem s.i.toNat x.toNat)).setIndex
      (indexAfter s x.toNat)).advance)

end Sys2Proof.Machine
end

