-- ==== Sys2Proof/Machine/ControlFlow.lean ====
section
/-!
DEFINITION. The control-flow instructions (`41_control_flow.md` R100 to R107).
-/

namespace Sys2Proof.Machine

/-- `RET` (R100): the saved value is the address of the `CALL`, so two is added. -/
def execRet (s : State) : Result :=
  if s.sp = 0 then raiseFault .stackUnderflow 0 s
  else complete (s.pop.setPc (s.top + 2))

/-- `JP nnn` (R101). -/
def execJp (nnn : Addr12) (s : State) : Result := complete (s.setPc (zextAddr nnn))

/-- `CALL nnn` (R102): pushes its own address. -/
def execCall (nnn : Addr12) (s : State) : Result :=
  if s.sp = 15 then raiseFault .stackOverflow (zextAddr nnn) s
  else complete ((s.push s.pc).setPc (zextAddr nnn))

/-- `SE Vx, kk` (R103). -/
def execSeImm (x : Nibble) (kk : Byte) (s : State) : Result :=
  complete (s.skipIf (decide (s.reg x = kk)))

/-- `SNE Vx, kk` (R104). -/
def execSneImm (x : Nibble) (kk : Byte) (s : State) : Result :=
  complete (s.skipIf (decide (s.reg x ≠ kk)))

/-- `SE Vx, Vy` (R105). -/
def execSeReg (x y : Nibble) (s : State) : Result :=
  complete (s.skipIf (decide (s.reg x = s.reg y)))

/-- `SNE Vx, Vy` (R106). -/
def execSneReg (x y : Nibble) (s : State) : Result :=
  complete (s.skipIf (decide (s.reg x ≠ s.reg y)))

/-- `JP V0, nnn` (R107): always `V[0]`; the sum is not reduced modulo 4096. -/
def execJpV0 (nnn : Addr12) (s : State) : Result :=
  complete (s.setPc (zextAddr nnn + zextByte (s.reg 0)))

end Sys2Proof.Machine
end

