-- ==== Sys2Proof/Machine/Flags.lean ====
section
/-!
DEFINITION. The flag computations (`10_state.md` R23) and the order of the two writes of a
flag-writing instruction (`42_load_alu.md` R110). Borrow polarity is decision D6 (log entry 15).
-/

namespace Sys2Proof.Machine

/-- `VF`, the register that is also the flag (R23). -/
def flagReg : Nibble := 15

/-- A flag is stored as the byte 0 or 1. -/
def flagByte (c : Bool) : Byte := if c then 1 else 0

/-- Carry out of an 8-bit addition (R117). -/
def carryOut (a b : Byte) : Bool := decide (255 < a.toNat + b.toNat)

/-- NOT borrow of the subtraction `a - b` (R118, R120). -/
def noBorrow (a b : Byte) : Bool := decide (b.toNat ≤ a.toNat)

/-- The bit a right shift by one drops (R119). -/
def shiftedOutRight (a : Byte) : Bool := a.getLsbD 0

/-- The bit a left shift by one drops (R121). -/
def shiftedOutLeft (a : Byte) : Bool := a.getLsbD 7

/-- Writes the flag register. -/
def State.setFlag (s : State) (c : Bool) : State := s.setReg flagReg (flagByte c)

/-- `VF <- flag`, then `V[x] <- result`: with x = 15 the result stays (R110). -/
def State.setFlagThenReg (s : State) (c : Bool) (x : Nibble) (b : Byte) : State :=
  (s.setFlag c).setReg x b

end Sys2Proof.Machine
end

