-- ==== Sys2Proof/Machine/Display.lean ====
section
/-!
DEFINITION. The display instructions (`45_display.md` R140 and R141). Wrapping of every pixel and the
order of bits and rows are the spec's decisions D10 and D11 (log entry 16).
-/

namespace Sys2Proof.Machine

/-- `CLS` (R140). -/
def execCls (s : State) : Result := complete (s.display Framebuffer.blank).advance

/-- Row (top + r) mod 32 and column (left + c) mod 64 (R141). -/
def wrapPixel (top left : Byte) (r c : Nat) : Pixel :=
  (⟨(top.toNat + r) % 32, Nat.mod_lt _ (by decide)⟩, ⟨(left.toNat + c) % 64, Nat.mod_lt _ (by decide)⟩)

/-- The cells of one sprite row's set bits, bit 7 leftmost (R141). -/
def rowPixels (bits top left : Byte) (r : Nat) : List Pixel :=
  (List.range 8).filterMap fun c =>
    if bits.getLsbD (7 - c) then some (wrapPixel top left r c) else none

/-- The cells of a sprite's set bits in the order of the two loops of R141, rows from the top. -/
def spritePixels (m : Memory) (base : Nat) (top left : Byte) (n : Nat) : List Pixel :=
  (List.range n).flatMap fun r => rowPixels (Memory.read m (base + r)) top left r

/-- For each cell in turn: a cell that is on is a collision; then it is flipped (R141). -/
def blit : Framebuffer → List Pixel → Bool → Framebuffer × Bool
  | fb, [], hit => (fb, hit)
  | fb, p :: ps, hit => blit (Framebuffer.flip fb p) ps (hit || Framebuffer.pixel fb p)

/-- The framebuffer and the collision flag after a sprite has been drawn on `s`. -/
def drawSprite (x y n : Nibble) (s : State) : Framebuffer × Bool :=
  blit s.fb (spritePixels s.mem s.i.toNat (s.reg y) (s.reg x) n.toNat) false

/-- `DRW Vx, Vy, n` (R141): column from `V[x]`, row from `V[y]`, both read before `VF` is written. -/
def execDrw (x y n : Nibble) (s : State) : Result :=
  withData n.toNat s
    (complete ((s.display (drawSprite x y n s).1).setFlag (drawSprite x y n s).2).advance)

end Sys2Proof.Machine
end

