-- ==== Sys2Proof/Machine/Index.lean ====
section
/-!
DEFINITION. The index-register instructions (`43_index.md` R130 to R132). No memory access, no flag,
no fault; a value of `I` outside memory is legal here (log entry 20).
-/

namespace Sys2Proof.Machine

/-- `I <- a`, `pc <- p + 2`. -/
def loadIndex (a : Word) (s : State) : Result := complete (s.setIndex a).advance

/-- `LD I, nnn` (R130). -/
def execLdI (nnn : Addr12) (s : State) : Result := loadIndex (zextAddr nnn) s

/-- `ADD I, Vx` (R131): modulo 65536, `VF` unchanged. -/
def execAddIVx (x : Nibble) (s : State) : Result := loadIndex (s.i + zextByte (s.reg x)) s

/-- The address of a symbol's glyph: symbol times glyph height, from address 0, the symbol not masked
(R57, R132). -/
def glyphAddress (symbol : Byte) : Word := zextByte symbol * BitVec.ofNat 16 Config.glyphHeight

/-- `LD F, Vx` (R132). -/
def execLdFVx (x : Nibble) (s : State) : Result := loadIndex (glyphAddress (s.reg x)) s

end Sys2Proof.Machine
end

