-- ==== Sys2Proof/Machine/KeyInput.lean ====
section
/-!
DEFINITION. The key-input instructions (`46_input.md` R150 to R152), over the keys of this step only.
-/

namespace Sys2Proof.Machine

/-- `SKP Vx` (R150). -/
def execSkp (x : Nibble) (s : State) : Result :=
  withKey (s.reg x) s (complete (s.skipIf (keyDown s.keys (s.reg x).toNat)))

/-- `SKNP Vx` (R151). -/
def execSknp (x : Nibble) (s : State) : Result :=
  withKey (s.reg x) s (complete (s.skipIf (!keyDown s.keys (s.reg x).toNat)))

/-- `LD Vx, K` (R152): with no key down the step is blocked, no write and no tick (R96); otherwise the
last key of the scan is stored, the pc advances and the timers tick. -/
def execLdVxK (x : Nibble) (s : State) : Result :=
  .next (match scanKeys s.keys with
    | none => s
    | some k => (s.setReg x k).advance.tick)

end Sys2Proof.Machine
end

