-- ==== Sys2Proof/Machine/LoadAlu.lean ====
section
/-!
DEFINITION. The register load and arithmetic-logic instructions (`42_load_alu.md` R110 to R122). All
operands are read from the state before the instruction writes anything (`00_scope.md` R9).
-/

namespace Sys2Proof.Machine

/-- `V[x] <- b`, `pc <- p + 2`: the instructions with no flag. -/
def loadReg (x : Nibble) (b : Byte) (s : State) : Result := complete (s.setReg x b).advance

/-- `VF <- c`, then `V[x] <- b`, `pc <- p + 2` (R110): the instructions with a flag. -/
def loadRegFlag (x : Nibble) (c : Bool) (b : Byte) (s : State) : Result :=
  complete (s.setFlagThenReg c x b).advance

/-- `LD Vx, kk` (R111). -/
def execLdImm (x : Nibble) (kk : Byte) (s : State) : Result := loadReg x kk s

/-- `ADD Vx, kk` (R112): no flag. -/
def execAddImm (x : Nibble) (kk : Byte) (s : State) : Result := loadReg x (s.reg x + kk) s

/-- `LD Vx, Vy` (R113). -/
def execLdReg (x y : Nibble) (s : State) : Result := loadReg x (s.reg y) s

/-- `OR Vx, Vy` (R114): `VF` unchanged (log entry 15). -/
def execOrReg (x y : Nibble) (s : State) : Result := loadReg x (s.reg x ||| s.reg y) s

/-- `AND Vx, Vy` (R115): `VF` unchanged (log entry 15). -/
def execAndReg (x y : Nibble) (s : State) : Result := loadReg x (s.reg x &&& s.reg y) s

/-- `XOR Vx, Vy` (R116): `VF` unchanged (log entry 15). -/
def execXorReg (x y : Nibble) (s : State) : Result := loadReg x (s.reg x ^^^ s.reg y) s

/-- `ADD Vx, Vy` (R117): `VF` = carry. -/
def execAddReg (x y : Nibble) (s : State) : Result :=
  loadRegFlag x (carryOut (s.reg x) (s.reg y)) (s.reg x + s.reg y) s

/-- `SUB Vx, Vy` (R118): `VF` = NOT borrow (log entry 15). -/
def execSubReg (x y : Nibble) (s : State) : Result :=
  loadRegFlag x (noBorrow (s.reg x) (s.reg y)) (s.reg x - s.reg y) s

/-- `SHR Vx` (R119): shifts `V[x]` in place; `y` is ignored (log entry 15). -/
def execShr (x _y : Nibble) (s : State) : Result :=
  loadRegFlag x (shiftedOutRight (s.reg x)) (s.reg x >>> 1) s

/-- `SUBN Vx, Vy` (R120): `V[y] - V[x]`, `VF` = NOT borrow (log entries 14 and 15). -/
def execSubnReg (x y : Nibble) (s : State) : Result :=
  loadRegFlag x (noBorrow (s.reg y) (s.reg x)) (s.reg y - s.reg x) s

/-- `SHL Vx` (R121): shifts `V[x]` in place; `y` is ignored (log entry 15). -/
def execShl (x _y : Nibble) (s : State) : Result :=
  loadRegFlag x (shiftedOutLeft (s.reg x)) (s.reg x <<< 1) s

end Sys2Proof.Machine
end

