-- ==== Sys2Proof/Machine/Random.lean ====
section
/-!
DEFINITION. The random-number instruction (`44_random.md` R135).
-/

namespace Sys2Proof.Machine

/-- `RND Vx, kk` (R135): the random byte of this step, masked. -/
def execRnd (x : Nibble) (kk : Byte) (s : State) : Result := loadReg x (s.rnd &&& kk) s

end Sys2Proof.Machine
end

