-- ==== Sys2Proof/Machine/Timers.lean ====
section
/-!
DEFINITION. The timer instructions (`47_timers.md` R155 to R157). The tick of the same step follows
the instruction's own writes (`40_step_cycle.md` R95, `70_reset_and_hazards.md` R210).
-/

namespace Sys2Proof.Machine

/-- `LD Vx, DT` (R155): the value before the tick. -/
def execLdVxDT (x : Nibble) (s : State) : Result := loadReg x s.dt s

/-- `LD DT, Vx` (R156). -/
def execLdDTVx (x : Nibble) (s : State) : Result := complete (s.setDelay (s.reg x)).advance

/-- `LD ST, Vx` (R157). -/
def execLdSTVx (x : Nibble) (s : State) : Result := complete (s.setSound (s.reg x)).advance

end Sys2Proof.Machine
end

