-- ==== Sys2Proof/Machine/Unrecognised.lean ====
section
/-!
DEFINITION. The no-operation of every unrecognised word (`49_unrecognised.md` R170). There is no
illegal-instruction fault (`30_encoding.md` R78), and no system or privileged instruction (R171).
-/

namespace Sys2Proof.Machine

/-- `NOP` (R170): a completed step that only advances the pc; the word's bits are ignored. -/
def execNop (_op : Word) (s : State) : Result := complete s.advance

end Sys2Proof.Machine
end

