-- ==== Sys2Proof/Machine/HostPort.lean ====
section
/-!
DEFINITION. What the host may do between steps and what it sees (`60_exceptions.md` R190 to R194,
`70_reset_and_hazards.md` R200 to R207). None of these is a step of the core (log entry 23).
-/

namespace Sys2Proof.Machine

/-- Reset, applied by the host between steps (R200, R201): every piece of state of R20 takes its
reset value; the inputs the host will present are not state and go on. -/
def State.hostReset (s : State) : State :=
  { State.reset with inputs := s.inputs, inputNo := s.inputNo }

/-- The load of a program (R205): byte k of the image to `MEM[0x200 + k]`; an image longer than 3584
bytes is refused (R206). -/
def State.loadImage (s : State) (image : List Byte) : Option State :=
  if image.length ≤ Config.romMax then
    some (s.setMem (Memory.writeBytes s.mem Config.programBase image))
  else none

/-- The launch state of an image: reset, then load. -/
def launch (image : List Byte) : Option State := State.reset.loadImage image

/-- The reset state of a machine with another `GLYPH_TABLE` (R58: a parameter; log entry 4). -/
def State.resetWithGlyphs (table : List Byte) : State :=
  State.reset.setMem (Memory.writeBytes State.reset.mem 0 (table.take 80))

/-- The framebuffer as the host reads it: row-major, cell index y * 64 + x (R33, R142). -/
def State.frame (s : State) : List Bool := s.fb.toList.flatMap fun row => row.toList

/-- The sound-active output (R193). -/
def State.soundActive (s : State) : Bool := decide (s.st ≠ 0)

/-- The machine is awaiting input (R34): a predicate, not a state field. -/
def State.awaitingInput (s : State) : Bool :=
  decide (s.fault = .none) &&
    match s.fetch with
    | some op =>
      match decode op with
      | .ldVxK _ => decide (s.keys = 0)
      | _ => false
    | none => false

/-- `s` made ready to fetch: running, and `pc` inside memory. A state that is so already is unchanged. -/
def State.readyToFetch (s : State) : State :=
  { s with
    fault := .none
    faultInfo := if s.fault = .none then s.faultInfo else 0
    pc := if s.pc.toNat ≤ Config.maxFetch then s.pc else Config.pcReset }

/-- `s` with an instruction word stored at its `pc`, high byte first (R51). -/
def State.storeWordAtPc (s : State) (op : Word) : State :=
  s.setMem (Memory.writeBytes s.mem s.pc.toNat [highByte op, lowByte op])

end Sys2Proof.Machine
end

