-- ==== Sys2Proof/Machine/Step.lean ====
section
/-!
DEFINITION. One step (`40_step_cycle.md` R90, R97), and the state whose next step fetches and runs a
given word (log entry 12).
-/

namespace Sys2Proof.Machine

/-- One step: halt check, DRAW cleared, fetch, decode, execute, tick (R97). -/
def step (s : State) : Host.Outcome State Fault Refusal := runStep exec s

/-- `s` with the word `w` (its bits from `nbits` on taken as 0) where the next step fetches; a halted
machine is set running and a `pc` outside memory to the reset `pc`, for a fetch needs both. -/
def State.withFetchWord (s : State) (nbits w : Nat) : State :=
  s.readyToFetch.storeWordAtPc (BitVec.ofNat 16 (w % 2 ^ nbits))

end Sys2Proof.Machine
end

