-- ==== Sys2Proof/Safety.lean ====
section
/-!
DEFINITION. The terms in which claims are stated: a machine gone wrong, the fault an instruction
raises (written from `60_exceptions.md` R181 and R182, not from the meanings), the invariant of the
machine, and the parts of a frame.
-/

namespace Sys2Proof.Machine

/-! ### Gone wrong -/

/-- A halted machine has gone wrong; it is no finished run (`60_exceptions.md` R184). -/
def State.goneWrong (s : State) : Bool := decide (s.fault ≠ .none)

/-- Some byte of `count` bytes at `base` would lie at 4096 or above (`20_memory.md` R53). -/
def offEnd (base : Word) (count : Nat) : Bool := decide (count ≠ 0) && decide (4096 < base.toNat + count)

/-- What the out-of-bounds access records: the lowest offending address (R53, R181). -/
def offEndCause (base : Word) (count : Nat) : Option (FaultCode × Word) :=
  if offEnd base count then some (.memOutOfBounds, BitVec.ofNat 16 (max base.toNat 4096)) else none

/-- A register that names no key (R150, R151). -/
def badKeyCause (symbol : Byte) : Option (FaultCode × Word) :=
  if 15 < symbol.toNat then some (.keyIndexOutOfRange, BitVec.ofNat 16 symbol.toNat) else none

/-- The fault an instruction raises in a state, with what it records, if it raises one: the table of
R182 with the causes and the information of R181. -/
def faultCause (i : Instr) (s : State) : Option (FaultCode × Word) :=
  match i with
  | .ret => if s.sp = 0 then some (.stackUnderflow, 0) else none
  | .call nnn => if s.sp = 15 then some (.stackOverflow, BitVec.ofNat 16 nnn.toNat) else none
  | .drw _ _ n => offEndCause s.i n.toNat
  | .ldBVx _ => offEndCause s.i 3
  | .ldMemVx x | .ldVxMem x => offEndCause s.i x.toNat
  | .skp x | .sknp x => badKeyCause (s.reg x)
  | .cls | .jp _ | .seImm _ _ | .sneImm _ _ | .seReg _ _ | .ldImm _ _ | .addImm _ _ | .ldReg _ _
  | .orReg _ _ | .andReg _ _ | .xorReg _ _ | .addReg _ _ | .subReg _ _ | .shr _ _ | .subnReg _ _
  | .shl _ _ | .sneReg _ _ | .ldI _ | .jpV0 _ | .rnd _ _ | .ldVxDT _ | .ldVxK _ | .ldDTVx _
  | .ldSTVx _ | .addIVx _ | .ldFVx _ | .nop _ => none

/-- The opcode at an address: `MEM[a] * 256 + MEM[a + 1]` (`30_encoding.md` R70). -/
def State.opcodeAt (s : State) (a : Nat) : Word :=
  BitVec.ofNat 16 ((s.mem.read a).toNat * 256 + (s.mem.read (a + 1)).toNat)

/-! ### The invariant -/

/-- The fault status explains itself (R181, R183): a running machine records nothing; a machine halted
at fetch records the `pc` that is out of bounds; a machine halted by an instruction has that
instruction at `pc`, and the state is still one in which it raises what is recorded. -/
def State.faultRecorded (s : State) : Bool :=
  match s.fault with
  | .none => decide (s.faultInfo = 0)
  | .pcOutOfBounds => decide (4094 < s.pc.toNat) && decide (s.faultInfo = s.pc)
  | .memOutOfBounds | .stackOverflow | .stackUnderflow | .keyIndexOutOfRange =>
    decide (s.pc.toNat ≤ 4094) &&
      decide (faultCause (decode (s.opcodeAt s.pc.toNat)) s = some (s.fault, s.faultInfo))

/-- The invariant of the machine: memory in canonical form; `STACK[0]` still 0 (R31); the fault status
explains itself; a halted machine has `DRAW` = 0 (R183). -/
def State.inv (s : State) : Bool :=
  s.mem.wf && decide (s.stack[0] = 0) && s.faultRecorded && (decide (s.fault = .none) || !s.draw)

/-! ### The parts of a frame -/

/-- `STACK[k]`. -/
def State.stackEntry (s : State) (k : Nibble) : Word := s.stack[k.toNat]'(nibble_lt k)

/-- No register changed. -/
def SameRegs (s t : State) : Prop := ∀ r, t.reg r = s.reg r

/-- No byte of memory changed. -/
def SameMemory (s t : State) : Prop := ∀ a, t.mem.read a = s.mem.read a

/-- Neither `SP` nor a stack entry changed. -/
def SameStack (s t : State) : Prop := t.sp = s.sp ∧ ∀ k, t.stackEntry k = s.stackEntry k

/-- Neither a framebuffer cell nor `DRAW` changed. -/
def SameDisplay (s t : State) : Prop := (∀ p, t.fb.pixel p = s.fb.pixel p) ∧ t.draw = s.draw

/-- The fault status did not change. -/
def SameFault (s t : State) : Prop := t.fault = s.fault ∧ t.faultInfo = s.faultInfo

/-- The model's own input fields did not change. -/
def SameInputs (s t : State) : Prop := t.inputs = s.inputs ∧ t.inputNo = s.inputNo

/-- Each timer went down by one, or stayed at 0 (`40_step_cycle.md` R95). -/
def Ticked (s t : State) : Prop := t.dt.toNat = s.dt.toNat - 1 ∧ t.st.toNat = s.st.toNat - 1

/-- Of a completed instruction: everything but the registers, `I`, `pc` and the ticking timers is
unchanged. -/
def OnlyRegsIndexPc (s t : State) : Prop :=
  SameMemory s t ∧ SameStack s t ∧ SameDisplay s t ∧ SameFault s t ∧ SameInputs s t ∧ Ticked s t

/-! ### Around a step -/

/-- Applies a change to the next state of an answer. -/
def mapNext (f : State → State) : Result → Result
  | .next s => .next (f s)
  | .fault r => .fault r
  | .refused r => .refused r

/-- What the end of a step does to the model's own input fields: the next input is the current one. -/
def State.inputTaken (s : State) : State :=
  { s with inputs := s.inputs.drop 1, inputNo := s.inputNo + 1 }

/-- A sprite of `n` rows, its top left pixel at column `V[x]`, row `V[y]`, has a set pixel at a cell:
row r, column c of the sprite is bit 7 - c of the byte at `I + r` and lands, wrapped, on that cell
(`45_display.md` R141). -/
def SpriteCovers (s : State) (x y n : Nibble) (p : Pixel) : Prop :=
  ∃ r c : Nat, r < n.toNat ∧ c < 8 ∧ (s.mem.read (s.i.toNat + r)).getLsbD (7 - c) = true ∧
    p.1.val = ((s.reg y).toNat + r) % 32 ∧ p.2.val = ((s.reg x).toNat + c) % 64

end Sys2Proof.Machine
end

