-- ==== Sys2Proof/Certificates/Slice0/Obligations.lean ====
section
/-!
DEFINITION. The statements for the provers, from the numbered rules of `spec/`. `exec` is the execute
phase and the timer tick of a completed instruction (log entry 8); `step` is the whole step. A
docstring that names a decision D<n> of `92_eei_decisions.md` says that the statement, or the clause
named, is the spec's own choice where the source is silent, and gives the log entry that follows it.
-/

open Sys2Proof Sys2Proof.Machine

/-! ### Display instructions -/

/-- `CLS` (R140): every cell off and `DRAW` set, whatever was there; nothing else but pc and tick. -/
def Obligations.ClsBlanksScreen : Prop :=
  ∀ s : State, ∃ t, exec .cls s = .next t ∧
    (∀ p, t.fb.pixel p = false) ∧ t.draw = true ∧ t.pc = s.pc + 2 ∧ t.i = s.i ∧
    SameRegs s t ∧ SameMemory s t ∧ SameStack s t ∧ SameFault s t ∧ SameInputs s t ∧ Ticked s t

/-- `DRW` (R141) inside memory: each cell is flipped exactly when a set sprite pixel covers it; `VF` is
1 exactly when a covered cell was on; `DRAW` is set. Wrapping and bit order are decisions D10 and D11
(log entry 16), the bounds decision D14 (log entry 18). -/
def Obligations.DrwFlipsCoveredCells : Prop :=
  ∀ (s : State) (x y n : Nibble), n = 0 ∨ s.i.toNat + n.toNat ≤ 4096 →
    ∃ t, exec (.drw x y n) s = .next t ∧
      (∀ p, t.fb.pixel p = true ↔ ¬(s.fb.pixel p = true ↔ SpriteCovers s x y n p)) ∧
      ((t.reg 15 = 1 ∧ ∃ p, SpriteCovers s x y n p ∧ s.fb.pixel p = true) ∨
       (t.reg 15 = 0 ∧ ¬∃ p, SpriteCovers s x y n p ∧ s.fb.pixel p = true)) ∧
      (∀ r, r ≠ 15 → t.reg r = s.reg r) ∧ t.draw = true ∧ t.pc = s.pc + 2 ∧ t.i = s.i ∧
      SameMemory s t ∧ SameStack s t ∧ SameFault s t ∧ SameInputs s t ∧ Ticked s t

/-- Drawing the same sprite twice at the same place restores the framebuffer; by the pseudocode of R141
the second draw reports a collision exactly when a set sprite pixel covers a cell that was off at the
start (the corner case of R141 says "any set bit", which holds where such a cell was off; log entry
16). The coordinates must not be in `VF`, which the first draw overwrites. Decisions D10, D11. -/
def Obligations.DrwTwiceRestores : Prop :=
  ∀ (s : State) (x y n : Nibble), x ≠ 15 → y ≠ 15 → n = 0 ∨ s.i.toNat + n.toNat ≤ 4096 →
    ∃ t u, exec (.drw x y n) s = .next t ∧ exec (.drw x y n) t = .next u ∧ u.fb = s.fb ∧
      (u.reg 15 = 1 ↔ ∃ p, SpriteCovers s x y n p ∧ s.fb.pixel p = false)

/-- No other instruction touches or reads the framebuffer: run on another framebuffer it answers the
same state with that framebuffer; `CLS` forgets it; of what `DRW` leaves, only the framebuffer and
`VF` can depend on it (R143). -/
def Obligations.FramebufferOnlyThroughDrw : Prop :=
  ∀ (s : State) (f : Framebuffer),
    (∀ i, i ≠ .cls → (∀ x y n, i ≠ .drw x y n) →
      exec i { s with fb := f } = mapNext (fun t => { t with fb := f }) (exec i s)) ∧
    exec .cls { s with fb := f } = exec .cls s ∧
    ∀ x y n, ∃ t u, exec (.drw x y n) s = .next t ∧ exec (.drw x y n) { s with fb := f } = .next u ∧
      t = { u with fb := t.fb, v := t.v } ∧ ∀ r, r ≠ 15 → t.reg r = u.reg r

/-- The host reads the cells row-major: cell y * 64 + x is `FB[y][x]` (R33, R142; decision D11, log
entry 16). -/
def Obligations.FrameIsRowMajor : Prop :=
  ∀ (s : State) (p : Pixel), s.frame.length = 2048 ∧
    s.frame[p.1.val * 64 + p.2.val]? = some (s.fb.pixel p)

/-! ### Control flow -/

/-- `RET` (R100): resumes two bytes after the saved address, the entry stays; with `SP` = 0 the fault
`StackUnderflow(0)` and nothing else. Decisions D12 and D13 (log entry 17). -/
def Obligations.RetResumesAfterCall : Prop :=
  ∀ s : State,
    (s.sp = 0 → exec .ret s = .next { s with fault := .stackUnderflow, faultInfo := 0 }) ∧
    (s.sp ≠ 0 → ∃ t, exec .ret s = .next t ∧
      t.pc = s.stackEntry s.sp + 2 ∧ t.sp.toNat + 1 = s.sp.toNat ∧
      (∀ k, t.stackEntry k = s.stackEntry k) ∧ t.i = s.i ∧ SameRegs s t ∧ SameMemory s t ∧
      SameDisplay s t ∧ SameFault s t ∧ SameInputs s t ∧ Ticked s t)

/-- `JP nnn` (R101). -/
def Obligations.JpGoesToAddress : Prop :=
  ∀ (s : State) (nnn : Addr12), ∃ t, exec (.jp nnn) s = .next t ∧
    t.pc.toNat = nnn.toNat ∧ t.i = s.i ∧ SameRegs s t ∧ OnlyRegsIndexPc s t

/-- `CALL nnn` (R102): the pointer goes up, its own address is stored there, pc = nnn; with `SP` = 15
the fault `StackOverflow(nnn)` and nothing else. Decisions D12 and D13 (log entry 17). -/
def Obligations.CallPushesOwnAddress : Prop :=
  ∀ (s : State) (nnn : Addr12),
    (s.sp = 15 → exec (.call nnn) s =
      .next { s with fault := .stackOverflow, faultInfo := BitVec.ofNat 16 nnn.toNat }) ∧
    (s.sp ≠ 15 → ∃ t, exec (.call nnn) s = .next t ∧
      t.pc.toNat = nnn.toNat ∧ t.sp.toNat = s.sp.toNat + 1 ∧
      (∀ k, t.stackEntry k = if k = t.sp then s.pc else s.stackEntry k) ∧ t.i = s.i ∧
      SameRegs s t ∧ SameMemory s t ∧ SameDisplay s t ∧ SameFault s t ∧ SameInputs s t ∧ Ticked s t)

/-- `SE Vx, kk` (R103) and `SNE Vx, kk` (R104). -/
def Obligations.SkipComparesImmediate : Prop :=
  ∀ (s : State) (x : Nibble) (kk : Byte),
    (∃ t, exec (.seImm x kk) s = .next t ∧
      t.pc = (if s.reg x = kk then s.pc + 4 else s.pc + 2) ∧ t.i = s.i ∧ SameRegs s t ∧
      OnlyRegsIndexPc s t) ∧
    ∃ t, exec (.sneImm x kk) s = .next t ∧
      t.pc = (if s.reg x = kk then s.pc + 2 else s.pc + 4) ∧ t.i = s.i ∧ SameRegs s t ∧
      OnlyRegsIndexPc s t

/-- `SE Vx, Vy` (R105) and `SNE Vx, Vy` (R106). -/
def Obligations.SkipComparesRegisters : Prop :=
  ∀ (s : State) (x y : Nibble),
    (∃ t, exec (.seReg x y) s = .next t ∧
      t.pc = (if s.reg x = s.reg y then s.pc + 4 else s.pc + 2) ∧ t.i = s.i ∧ SameRegs s t ∧
      OnlyRegsIndexPc s t) ∧
    ∃ t, exec (.sneReg x y) s = .next t ∧
      t.pc = (if s.reg x = s.reg y then s.pc + 2 else s.pc + 4) ∧ t.i = s.i ∧ SameRegs s t ∧
      OnlyRegsIndexPc s t

/-- `JP V0, nnn` (R107): the sum of the address and `V[0]`, not reduced modulo 4096. The instruction
itself is decision D5 (log entry 14). -/
def Obligations.JpV0AddsRegister : Prop :=
  ∀ (s : State) (nnn : Addr12), ∃ t, exec (.jpV0 nnn) s = .next t ∧
    t.pc.toNat = nnn.toNat + (s.reg 0).toNat ∧ t.i = s.i ∧ SameRegs s t ∧ OnlyRegsIndexPc s t

/-- A `CALL` to a `RET` comes back, in two steps, to the instruction after the `CALL`, at the same
depth and with every register as it was (`95_test_vectors.md` S6; decision D12, log entry 17). -/
def Obligations.CallThenRetReturns : Prop :=
  ∀ (s : State) (nnn : Addr12), s.fault = .none → s.sp ≠ 15 → s.pc.toNat ≤ 4094 →
    nnn.toNat ≤ 4094 → decode (s.opcodeAt s.pc.toNat) = .call nnn →
    decode (s.opcodeAt nnn.toNat) = .ret →
    ∃ t u, step s = .next t ∧ step t = .next u ∧ u.pc = s.pc + 2 ∧ u.sp = s.sp ∧ SameRegs s u ∧
      u.fault = .none

/-! ### Loads, arithmetic, logic -/

/-- `LD Vx, kk` (R111). -/
def Obligations.LoadImmediate : Prop :=
  ∀ (s : State) (x : Nibble) (kk : Byte), ∃ t, exec (.ldImm x kk) s = .next t ∧
    (∀ r, t.reg r = if r = x then kk else s.reg r) ∧
    t.pc = s.pc + 2 ∧ t.i = s.i ∧ OnlyRegsIndexPc s t

/-- `ADD Vx, kk` (R112): modulo 256, no flag. -/
def Obligations.AddImmediateSetsNoFlag : Prop :=
  ∀ (s : State) (x : Nibble) (kk : Byte), ∃ t, exec (.addImm x kk) s = .next t ∧
    (t.reg x).toNat = ((s.reg x).toNat + kk.toNat) % 256 ∧
    (∀ r, r ≠ x → t.reg r = s.reg r) ∧
    t.pc = s.pc + 2 ∧ t.i = s.i ∧ OnlyRegsIndexPc s t

/-- Copy, OR, AND, XOR (R113 to R116), bit by bit; `VF` is left alone unless it is the destination, by
decision D8 (log entry 15). -/
def Obligations.CopyAndLogicSetNoFlag : Prop :=
  ∀ (s : State) (x y : Nibble),
    (∃ t, exec (.ldReg x y) s = .next t ∧ t.reg x = s.reg y ∧
      (∀ r, r ≠ x → t.reg r = s.reg r) ∧ t.pc = s.pc + 2 ∧ t.i = s.i ∧ OnlyRegsIndexPc s t) ∧
    (∃ t, exec (.orReg x y) s = .next t ∧
      (∀ k, (t.reg x).getLsbD k = ((s.reg x).getLsbD k || (s.reg y).getLsbD k)) ∧
      (∀ r, r ≠ x → t.reg r = s.reg r) ∧ t.pc = s.pc + 2 ∧ t.i = s.i ∧ OnlyRegsIndexPc s t) ∧
    (∃ t, exec (.andReg x y) s = .next t ∧
      (∀ k, (t.reg x).getLsbD k = ((s.reg x).getLsbD k && (s.reg y).getLsbD k)) ∧
      (∀ r, r ≠ x → t.reg r = s.reg r) ∧ t.pc = s.pc + 2 ∧ t.i = s.i ∧ OnlyRegsIndexPc s t) ∧
    ∃ t, exec (.xorReg x y) s = .next t ∧
      (∀ k, (t.reg x).getLsbD k = ((s.reg x).getLsbD k ^^ (s.reg y).getLsbD k)) ∧
      (∀ r, r ≠ x → t.reg r = s.reg r) ∧ t.pc = s.pc + 2 ∧ t.i = s.i ∧ OnlyRegsIndexPc s t

/-- `ADD Vx, Vy` (R117): `VF` = 1 exactly when the sum exceeds 255, `V[x]` = the sum modulo 256, both
from the old operands; with x = 15 the result stays. That the result too uses the old `VF` when y = 15
is decision D9 (log entry 15). -/
def Obligations.AddSetsCarry : Prop :=
  ∀ (s : State) (x y : Nibble), ∃ t, exec (.addReg x y) s = .next t ∧
    (t.reg x).toNat = ((s.reg x).toNat + (s.reg y).toNat) % 256 ∧
    (∀ r, r ≠ x → t.reg r = if r = 15 then (if 255 < (s.reg x).toNat + (s.reg y).toNat then 1 else 0)
      else s.reg r) ∧
    t.pc = s.pc + 2 ∧ t.i = s.i ∧ OnlyRegsIndexPc s t

/-- `SUB Vx, Vy` (R118) and `SUBN Vx, Vy` (R120): `VF` = 1 exactly when there is no borrow. The polarity
is decision D6, `SUBN` itself D4, the snapshot D9 (log entries 14 and 15). -/
def Obligations.SubtractionsSetNotBorrow : Prop :=
  ∀ (s : State) (x y : Nibble),
    (∃ t, exec (.subReg x y) s = .next t ∧
      (t.reg x).toNat = ((s.reg x).toNat + 256 - (s.reg y).toNat) % 256 ∧
      (∀ r, r ≠ x → t.reg r = if r = 15 then (if (s.reg y).toNat ≤ (s.reg x).toNat then 1 else 0)
        else s.reg r) ∧
      t.pc = s.pc + 2 ∧ t.i = s.i ∧ OnlyRegsIndexPc s t) ∧
    ∃ t, exec (.subnReg x y) s = .next t ∧
      (t.reg x).toNat = ((s.reg y).toNat + 256 - (s.reg x).toNat) % 256 ∧
      (∀ r, r ≠ x → t.reg r = if r = 15 then (if (s.reg x).toNat ≤ (s.reg y).toNat then 1 else 0)
        else s.reg r) ∧
      t.pc = s.pc + 2 ∧ t.i = s.i ∧ OnlyRegsIndexPc s t

/-- `SHR Vx` (R119) and `SHL Vx` (R121): `V[x]` is shifted by one in place, `VF` is the bit shifted out,
and `y` plays no part. The operand is decision D7, the order with x = 15 that of R110 (log entry 15). -/
def Obligations.ShiftsInPlace : Prop :=
  ∀ (s : State) (x y : Nibble),
    (∃ t, exec (.shr x y) s = .next t ∧ (t.reg x).toNat = (s.reg x).toNat / 2 ∧
      (∀ r, r ≠ x → t.reg r = if r = 15 then BitVec.ofNat 8 ((s.reg x).toNat % 2) else s.reg r) ∧
      t.pc = s.pc + 2 ∧ t.i = s.i ∧ OnlyRegsIndexPc s t) ∧
    ∃ t, exec (.shl x y) s = .next t ∧ (t.reg x).toNat = (s.reg x).toNat * 2 % 256 ∧
      (∀ r, r ≠ x → t.reg r = if r = 15 then BitVec.ofNat 8 ((s.reg x).toNat / 128) else s.reg r) ∧
      t.pc = s.pc + 2 ∧ t.i = s.i ∧ OnlyRegsIndexPc s t

/-! ### Index register, random -/

/-- `LD I, nnn` (R130). -/
def Obligations.LoadIndex : Prop :=
  ∀ (s : State) (nnn : Addr12), ∃ t, exec (.ldI nnn) s = .next t ∧
    t.i.toNat = nnn.toNat ∧ t.pc = s.pc + 2 ∧ SameRegs s t ∧ OnlyRegsIndexPc s t

/-- `ADD I, Vx` (R131): modulo 65536, no flag; both are decision D22 (log entry 20). -/
def Obligations.AddToIndexWraps : Prop :=
  ∀ (s : State) (x : Nibble), ∃ t, exec (.addIVx x) s = .next t ∧
    t.i.toNat = (s.i.toNat + (s.reg x).toNat) % 65536 ∧ t.pc = s.pc + 2 ∧ SameRegs s t ∧
    OnlyRegsIndexPc s t

/-- `LD F, Vx` (R132): five times the whole register, not masked; decision D22 (log entry 20). -/
def Obligations.LoadGlyphAddress : Prop :=
  ∀ (s : State) (x : Nibble), ∃ t, exec (.ldFVx x) s = .next t ∧
    t.i.toNat = (s.reg x).toNat * 5 ∧ t.pc = s.pc + 2 ∧ SameRegs s t ∧ OnlyRegsIndexPc s t

/-- `RND Vx, kk` (R135): the random byte of this step ANDed with kk; no old register enters. One input
byte per step is decision D23; a byte not fixed beforehand is a free value (log entry 1). -/
def Obligations.RndMasksRandomByte : Prop :=
  ∀ (s : State) (x : Nibble) (kk : Byte), ∃ t, exec (.rnd x kk) s = .next t ∧
    (∀ r, t.reg r = if r = x then s.rnd &&& kk else s.reg r) ∧
    (∀ inp rest, s.inputs = inp :: rest → t.reg x = inp.rnd &&& kk) ∧
    t.pc = s.pc + 2 ∧ t.i = s.i ∧ OnlyRegsIndexPc s t

/-! ### Keys -/

/-- `SKP Vx` (R150) and `SKNP Vx` (R151): skip on the level of the key named by `V[x]`; above 15 the
fault `KeyIndexOutOfRange(V[x])` and nothing else, by decision D16 (log entry 18). -/
def Obligations.KeySkipsTestLevel : Prop :=
  ∀ (s : State) (x : Nibble),
    (15 < (s.reg x).toNat → ∀ i, i = .skp x ∨ i = .sknp x → exec i s = .next
      { s with fault := .keyIndexOutOfRange, faultInfo := BitVec.ofNat 16 (s.reg x).toNat }) ∧
    ((s.reg x).toNat ≤ 15 →
      (∃ t, exec (.skp x) s = .next t ∧
        t.pc = (if s.keys.getLsbD (s.reg x).toNat then s.pc + 4 else s.pc + 2) ∧ t.i = s.i ∧
        SameRegs s t ∧ OnlyRegsIndexPc s t) ∧
      ∃ t, exec (.sknp x) s = .next t ∧
        t.pc = (if s.keys.getLsbD (s.reg x).toNat then s.pc + 2 else s.pc + 4) ∧ t.i = s.i ∧
        SameRegs s t ∧ OnlyRegsIndexPc s t)

/-- `LD Vx, K` (R152): with no key down nothing at all changes; otherwise `V[x]` is the greatest key
down, by decision D20 (log entry 19), the pc advances and the timers tick. -/
def Obligations.KeyWaitStoresGreatestKey : Prop :=
  ∀ (s : State) (x : Nibble),
    (s.keys = 0 → exec (.ldVxK x) s = .next s) ∧
    (s.keys ≠ 0 → ∃ t k, exec (.ldVxK x) s = .next t ∧ k < 16 ∧ s.keys.getLsbD k = true ∧
      (∀ j, k < j → j < 16 → s.keys.getLsbD j = false) ∧
      (∀ r, t.reg r = if r = x then BitVec.ofNat 8 k else s.reg r) ∧
      t.pc = s.pc + 2 ∧ t.i = s.i ∧ OnlyRegsIndexPc s t)

/-- Across any number of steps with no key down, whatever random bytes come with them (R39), the pc and
the timers stay; in the step in which a key is down, `V[x]` receives a key that is down, the pc advances
by two and the timers tick (R96, R152; `95_test_vectors.md` S5). The inputs are fixed beforehand in the
model's own field (log entry 1). -/
def Obligations.KeyWaitEndsWithFirstKey : Prop :=
  ∀ (s : State) (x : Nibble) (quiets : List Input) (press : Input) (rest : List Input),
    s.fault = .none → s.pc.toNat ≤ 4094 → decode (s.opcodeAt s.pc.toNat) = .ldVxK x →
    (∀ q ∈ quiets, q.keys = 0) → press.keys ≠ 0 → s.inputs = quiets ++ press :: rest →
    ∃ w t, Sys2Proof.core.run quiets.length s = .next w ∧ w.pc = s.pc ∧ w.dt = s.dt ∧ w.st = s.st ∧
      SameRegs s w ∧ step w = .next t ∧ t.pc = s.pc + 2 ∧ Ticked s t ∧
      (t.reg x).toNat < 16 ∧ press.keys.getLsbD (t.reg x).toNat = true

/-! ### Timers -/

/-- `LD Vx, DT` (R155): the value before the tick of the same step. -/
def Obligations.ReadDelayTimer : Prop :=
  ∀ (s : State) (x : Nibble), ∃ t, exec (.ldVxDT x) s = .next t ∧
    (∀ r, t.reg r = if r = x then s.dt else s.reg r) ∧
    t.pc = s.pc + 2 ∧ t.i = s.i ∧ OnlyRegsIndexPc s t

/-- `LD DT, Vx` (R156): the step ends at `V[x]` - 1, or at 0. -/
def Obligations.SetDelayTimer : Prop :=
  ∀ (s : State) (x : Nibble), ∃ t, exec (.ldDTVx x) s = .next t ∧
    t.dt.toNat = (s.reg x).toNat - 1 ∧ t.st.toNat = s.st.toNat - 1 ∧
    t.pc = s.pc + 2 ∧ t.i = s.i ∧ SameRegs s t ∧ SameMemory s t ∧ SameStack s t ∧ SameDisplay s t ∧
    SameFault s t ∧ SameInputs s t

/-- `LD ST, Vx` (R157): the step ends at `V[x]` - 1, or at 0. -/
def Obligations.SetSoundTimer : Prop :=
  ∀ (s : State) (x : Nibble), ∃ t, exec (.ldSTVx x) s = .next t ∧
    t.st.toNat = (s.reg x).toNat - 1 ∧ t.dt.toNat = s.dt.toNat - 1 ∧
    t.pc = s.pc + 2 ∧ t.i = s.i ∧ SameRegs s t ∧ SameMemory s t ∧ SameStack s t ∧ SameDisplay s t ∧
    SameFault s t ∧ SameInputs s t

/-- The timers tick in every completed instruction, and never in one that faults or blocks; only
`LD DT, Vx` and `LD ST, Vx` do anything else to them (R28, R95; decision D29, log entry 22). -/
def Obligations.TimersTickWhenCompleted : Prop :=
  ∀ (i : Instr) (s t : State), exec i s = .next t →
    ((faultCause i s).isSome = true ∨ (∃ x, i = .ldVxK x) ∧ s.keys = 0 →
      t.dt = s.dt ∧ t.st = s.st) ∧
    (faultCause i s = none → ¬((∃ x, i = .ldVxK x) ∧ s.keys = 0) →
      ((∀ x, i ≠ .ldDTVx x) → t.dt.toNat = s.dt.toNat - 1) ∧
      ((∀ x, i ≠ .ldSTVx x) → t.st.toNat = s.st.toNat - 1))

/-! ### Memory block transfers -/

/-- `LD B, Vx` (R160): hundreds, tens, units at `I`, `I` + 1, `I` + 2, and no other byte. The bound is
decision D14 (log entry 18). -/
def Obligations.StoreDecimalDigits : Prop :=
  ∀ (s : State) (x : Nibble), s.mem.wf = true → s.i.toNat ≤ 4093 →
    ∃ t, exec (.ldBVx x) s = .next t ∧
      (∀ a, (t.mem.read a).toNat =
        if a = s.i.toNat then (s.reg x).toNat / 100
        else if a = s.i.toNat + 1 then (s.reg x).toNat / 10 % 10
        else if a = s.i.toNat + 2 then (s.reg x).toNat % 10
        else (s.mem.read a).toNat) ∧
      t.pc = s.pc + 2 ∧ t.i = s.i ∧ SameRegs s t ∧ SameStack s t ∧ SameDisplay s t ∧
      SameFault s t ∧ SameInputs s t ∧ Ticked s t

/-- `LD [I], Vx` (R161): exactly `V[0]` to `V[x-1]` to `I`, …, and `I` goes up by x + 1, modulo 65536.
The boundary is decision D27 (log entry 21), the bound D14 (log entry 18). -/
def Obligations.StoreRegistersBelowX : Prop :=
  ∀ (s : State) (x : Nibble), s.mem.wf = true → x = 0 ∨ s.i.toNat + x.toNat ≤ 4096 →
    ∃ t, exec (.ldMemVx x) s = .next t ∧
      (∀ a, t.mem.read a = if s.i.toNat ≤ a ∧ a < s.i.toNat + x.toNat
        then s.reg (BitVec.ofNat 4 (a - s.i.toNat)) else s.mem.read a) ∧
      t.i.toNat = (s.i.toNat + x.toNat + 1) % 65536 ∧ t.pc = s.pc + 2 ∧ SameRegs s t ∧
      SameStack s t ∧ SameDisplay s t ∧ SameFault s t ∧ SameInputs s t ∧ Ticked s t

/-- `LD Vx, [I]` (R162): exactly `V[0]` to `V[x-1]` from `I`, …, and `I` goes up by x + 1, modulo 65536.
The boundary is decision D27 (log entry 21), the bound D14 (log entry 18). -/
def Obligations.LoadRegistersBelowX : Prop :=
  ∀ (s : State) (x : Nibble), x = 0 ∨ s.i.toNat + x.toNat ≤ 4096 →
    ∃ t, exec (.ldVxMem x) s = .next t ∧
      (∀ r, t.reg r = if r.toNat < x.toNat then s.mem.read (s.i.toNat + r.toNat) else s.reg r) ∧
      t.i.toNat = (s.i.toNat + x.toNat + 1) % 65536 ∧ t.pc = s.pc + 2 ∧ OnlyRegsIndexPc s t

/-- A `DRW`, `LD B`, `LD [I]` or `LD Vx, [I]` that would touch address 4096 or above records
`MemOutOfBounds(max(I, 4096))` and changes nothing else (R53, R181; decision D14, log entry 18). -/
def Obligations.DataOutOfBoundsFaults : Prop :=
  ∀ (s : State) (i : Instr) (count : Nat),
    (∃ x y n, i = .drw x y n ∧ count = n.toNat) ∨ ((∃ x, i = .ldBVx x) ∧ count = 3) ∨
      (∃ x, (i = .ldMemVx x ∨ i = .ldVxMem x) ∧ count = x.toNat) →
    count ≠ 0 → 4096 < s.i.toNat + count →
    exec i s = .next
      { s with fault := .memOutOfBounds, faultInfo := BitVec.ofNat 16 (max s.i.toNat 4096) }

/-- Only `LD B, Vx` and `LD [I], Vx` change a byte of memory (R54). -/
def Obligations.OnlyStoresChangeMemory : Prop :=
  ∀ (i : Instr) (s t : State) (a : Nat), exec i s = .next t → t.mem.read a ≠ s.mem.read a →
    (∃ x, i = .ldBVx x) ∨ ∃ x, i = .ldMemVx x

/-- A store is seen by the very next fetch: a `LD [I], Vx` with x ≥ 2 and `I` at the next instruction
makes the next step run the word it stored (R62; decision D24, log entry 25). -/
def Obligations.StoreReachesNextFetch : Prop :=
  ∀ (s : State) (x : Nibble), s.mem.wf = true → s.fault = .none → s.pc.toNat + x.toNat ≤ 4094 →
    2 ≤ x.toNat → s.i = s.pc + 2 → decode (s.opcodeAt s.pc.toNat) = .ldMemVx x →
    ∃ t, step s = .next t ∧ t.pc = s.pc + 2 ∧
      step t = mapNext State.inputTaken (exec
        (decode (BitVec.ofNat 16 ((s.reg 0).toNat * 256 + (s.reg 1).toNat))) { t with draw := false })

/-! ### The no-operation -/

/-- `NOP` (R170): a completed step that only advances the pc, whatever the word. Which words are `nop` is
`UnrecognisedWordsExactly` (decision D3, log entry 7). -/
def Obligations.NopOnlyAdvances : Prop :=
  ∀ (s : State) (op : Word), ∃ t, exec (.nop op) s = .next t ∧
    t.pc = s.pc + 2 ∧ t.i = s.i ∧ SameRegs s t ∧ OnlyRegsIndexPc s t

/-! ### Which instructions write which state -/

/-- Only `CALL` and `RET` touch `SP` or the stack, and `STACK[0]` is written by none (R31). -/
def Obligations.OnlyCallAndRetTouchStack : Prop :=
  ∀ (i : Instr) (s t : State), exec i s = .next t →
    t.stackEntry 0 = s.stackEntry 0 ∧
    (¬SameStack s t → i = .ret ∨ ∃ nnn, i = .call nnn)

/-- Only `LD I`, `ADD I`, `LD F` and the two block transfers write `I` (R27). -/
def Obligations.OnlyIndexInstructionsWriteIndex : Prop :=
  ∀ (i : Instr) (s t : State), exec i s = .next t → t.i ≠ s.i →
    (∃ nnn, i = .ldI nnn) ∨
    ∃ x, i = .addIVx x ∨ i = .ldFVx x ∨ i = .ldMemVx x ∨ i = .ldVxMem x

/-- `VF` is written only by the six flag-writing instructions and by an instruction whose destination
it is (R23). The flag values are decisions D6 to D8 (log entry 15); this statement does not name them. -/
def Obligations.FlagWrittenOnlyByItsWriters : Prop :=
  ∀ (i : Instr) (s t : State), exec i s = .next t → t.reg 15 ≠ s.reg 15 →
    (∃ x y, i = .addReg x y ∨ i = .subReg x y ∨ i = .shr x y ∨ i = .subnReg x y ∨ i = .shl x y) ∨
    (∃ x y n, i = .drw x y n) ∨
    (∃ kk, i = .ldImm 15 kk ∨ i = .addImm 15 kk ∨ i = .rnd 15 kk) ∨
    (∃ y, i = .ldReg 15 y ∨ i = .orReg 15 y ∨ i = .andReg 15 y ∨ i = .xorReg 15 y) ∨
    i = .ldVxDT 15 ∨ i = .ldVxK 15

/-! ### Faults -/

/-- The table of faults is complete and exact (R181, R182): an instruction that has a cause to fault
records it and changes nothing else; any other leaves the fault status alone. The policies are
decisions D13 to D17 (log entries 9, 17, 18). -/
def Obligations.FaultsExactlyAsTabulated : Prop :=
  ∀ (i : Instr) (s : State),
    match faultCause i s with
    | some (code, info) => exec i s = .next { s with fault := code, faultInfo := info }
    | none => ∃ t, exec i s = .next t ∧ SameFault s t

/-- A fetch from a `pc` above 4094 records `PcOutOfBounds(pc)`, clears `DRAW` and changes nothing else
(R92, R183; decisions D15, D17 and D26, log entries 18 and 22). -/
def Obligations.FetchOutOfBoundsFaults : Prop :=
  ∀ s : State, s.fault = .none → 4094 < s.pc.toNat →
    step s = .next (State.inputTaken
      { s with draw := false, fault := .pcOutOfBounds, faultInfo := s.pc })

/-- A faulting step is precise: the state is the one before it but for `DRAW` = 0, `FAULT` and
`FAULT_INFO` (R183), and the input taken. Decision D17 (log entry 9). -/
def Obligations.FaultingStepIsPrecise : Prop :=
  ∀ s t : State, step s = .next t → s.fault = .none → t.fault ≠ .none →
    t = State.inputTaken { s with draw := false, fault := t.fault, faultInfo := t.faultInfo }

/-- The halted state is sticky: no number of steps changes anything (R91, R184; decision D17, log
entries 3 and 9). -/
def Obligations.HaltedForever : Prop :=
  ∀ (n : Nat) (s : State), s.fault ≠ .none → Sys2Proof.core.run n s = .next s

/-! ### The step -/

/-- When the bytes at `pc` decode to `i`, the step is `exec i` on the state with `DRAW` cleared, and the
next step takes the next input (R70, R91 to R94). -/
def Obligations.StepRunsDecodedInstruction : Prop :=
  ∀ (s : State) (i : Instr), s.fault = .none → s.pc.toNat ≤ 4094 →
    decode (BitVec.ofNat 16
      ((s.mem.read s.pc.toNat).toNat * 256 + (s.mem.read (s.pc.toNat + 1)).toNat)) = i →
    step s = mapNext State.inputTaken (exec i { s with draw := false })

/-- The step is total: it always answers a next state (R90). -/
def Obligations.StepAlwaysAnswers : Prop := ∀ s : State, ∃ t, step s = .next t

/-- `DRAW` (R29): cleared at the start of every step of a running machine, never read, 1 after a step
exactly when that step executed `CLS` or `DRW` to completion, and 0 at reset. -/
def Obligations.DrawFlagLivesOneStep : Prop :=
  State.reset.draw = false ∧
  ∀ s : State, s.fault = .none →
    (∀ b, step { s with draw := b } = step s) ∧
    ∃ t, step s = .next t ∧
      (t.draw = true ↔ s.pc.toNat ≤ 4094 ∧
        (decode (s.opcodeAt s.pc.toNat) = .cls ∨
         ∃ x y n, decode (s.opcodeAt s.pc.toNat) = .drw x y n ∧ t.fault = .none))

/-- The blocked step (R96): at `LD Vx, K` with no key down the next state is the state before the step
but for `DRAW` = 0 (and the input taken), and the next step fetches the same word again. -/
def Obligations.BlockedStepChangesNothing : Prop :=
  ∀ (s : State) (x : Nibble), s.fault = .none → s.pc.toNat ≤ 4094 →
    decode (s.opcodeAt s.pc.toNat) = .ldVxK x → s.keys = 0 →
    ∃ t, step s = .next t ∧ t = State.inputTaken { s with draw := false } ∧
      t.opcodeAt t.pc.toNat = s.opcodeAt s.pc.toNat

/-- Awaiting input is a function of the state and the keys (R34; decision D21): running, `pc` at most
4094, a word FX0A at `pc`, no key down. -/
def Obligations.AwaitingInputExactly : Prop :=
  ∀ s : State, s.awaitingInput = true ↔
    s.fault = .none ∧ s.pc.toNat ≤ 4094 ∧ s.opcodeAt s.pc.toNat &&& 0xF0FF = 0xF00A ∧ s.keys = 0

/-- The inputs reach only the instructions that name them: without `RND` the random byte of the step
changes nothing, and without `SKP`, `SKNP` and `LD Vx, K` the keys change nothing (R38, R39; decision
D23, log entry 1). -/
def Obligations.InputsReachOnlyTheirReaders : Prop :=
  ∀ (i : Instr) (s : State) (k k' : Word) (r r' : Byte) (rest : List Input),
    ((∀ x kk, i ≠ .rnd x kk) → exec i { s with inputs := ⟨k, r'⟩ :: rest } =
      mapNext (fun t => { t with inputs := ⟨k, r'⟩ :: rest })
        (exec i { s with inputs := ⟨k, r⟩ :: rest })) ∧
    ((∀ x, i ≠ .skp x ∧ i ≠ .sknp x ∧ i ≠ .ldVxK x) → exec i { s with inputs := ⟨k', r⟩ :: rest } =
      mapNext (fun t => { t with inputs := ⟨k', r⟩ :: rest })
        (exec i { s with inputs := ⟨k, r⟩ :: rest }))

/-! ### Reset, load, invariant -/

/-- After reset every general register holds 0 (R22). -/
def Obligations.ResetClearsRegisters : Prop := ∀ x : Nibble, State.reset.reg x = 0

/-- The rest of the reset state (R40): memory is the glyph table of the model at 0..79 and 0 elsewhere;
`pc` = 0x200; everything else 0; a host reset from any state gives the same but for the inputs still
to come. The `pc` is decision D18 (log entry 5), the table's bytes D19 (log entry 4); this statement
names no byte of the table. -/
def Obligations.ResetState : Prop :=
  State.reset.pc = 0x200 ∧ State.reset.i = 0 ∧ State.reset.sp = 0 ∧
  (∀ k, State.reset.stackEntry k = 0) ∧ (∀ p, State.reset.fb.pixel p = false) ∧
  State.reset.draw = false ∧ State.reset.dt = 0 ∧ State.reset.st = 0 ∧
  State.reset.fault = .none ∧ State.reset.faultInfo = 0 ∧ Config.glyphTable.length = 80 ∧
  (∀ a, State.reset.mem.read a = if h : a < Config.glyphTable.length then Config.glyphTable[a] else 0) ∧
  ∀ s : State, { s.hostReset with inputs := [], inputNo := 0 } = State.reset

/-- The load of a program (R205, R206): byte k of the image lands at 0x200 + k and every other byte and
field keeps its reset value; an image longer than 3584 bytes gives no launch state. -/
def Obligations.LaunchPlacesImage : Prop :=
  ∀ image : List Byte,
    (3584 < image.length → launch image = none) ∧
    (image.length ≤ 3584 → ∃ t, launch image = some t ∧
      (∀ a, t.mem.read a = if 0x200 ≤ a then image.getD (a - 0x200) (State.reset.mem.read a)
        else State.reset.mem.read a) ∧
      { t with mem := [] } = State.reset)

/-- The invariant holds at reset. -/
def Obligations.ResetHasInvariant : Prop := State.reset.inv = true

/-- Every step keeps the invariant: memory in canonical form, `STACK[0]` = 0 (R31), a fault status that
explains itself (R181, R183), `DRAW` = 0 once halted. Fault policy: decisions D13 to D17 (log entries 9,
17, 18). -/
def Obligations.StepKeepsInvariant : Prop :=
  ∀ s t : State, s.inv = true → step s = .next t → t.inv = true

/-! ### Decoding and encoding -/

/-- Decoding the word of a well-formed instruction gives it back, every operand at every value. For
`nop`, which carries its word, this is log entry 11; the numbers are decision D2 (log entry 6). -/
def Obligations.DecodeEncodeRoundTrip : Prop :=
  ∀ i : Instr, i.wellFormed = true → decode (encode i) = i

/-- Every word is the encoding of what it decodes to, which is well-formed. For the recognised words
this is R82, with the ignored `y` of the shifts kept in the term; for the 21582 unrecognised words it is
the model's own choice that `nop` carries its word (DESIGN CHOICE, log entry 11), R82 saying nothing of
them. The numbers are decision D2 (log entry 6). -/
def Obligations.EncodeDecodeIsWord : Prop :=
  ∀ op : Word, encode (decode op) = op ∧ (decode op).wellFormed = true

/-- The rows of the opcode map are mutually exclusive (R75). -/
def Obligations.OpcodeRowsExclusive : Prop :=
  opcodeRows.length = 34 ∧
  opcodeRows.Pairwise fun a b => ∀ op : Word, ¬(op &&& a.mask = a.value ∧ op &&& b.mask = b.value)

/-- The words that decode to the no-operation, family by family (R77; decision D3, log entry 7). -/
def Obligations.UnrecognisedWordsExactly : Prop :=
  ∀ op : Word, decode op = .nop op ↔
    (op.toNat < 0x1000 ∧ op ≠ 0x00E0 ∧ op ≠ 0x00EE) ∨
    (op.toNat / 4096 = 5 ∧ op.toNat % 16 ≠ 0) ∨
    (op.toNat / 4096 = 8 ∧ op.toNat % 16 ∈ [8, 9, 10, 11, 12, 13, 15]) ∨
    (op.toNat / 4096 = 9 ∧ op.toNat % 16 ≠ 0) ∨
    (op.toNat / 4096 = 14 ∧ op.toNat % 256 ∉ [0x9E, 0xA1]) ∨
    (op.toNat / 4096 = 15 ∧
      op.toNat % 256 ∉ [0x07, 0x0A, 0x15, 0x18, 0x1E, 0x29, 0x33, 0x55, 0x65])

/-- Words written out from the encodings, at least one for each of the sixteen families (high nibbles,
R11), decode to the instructions they stand for (`95_test_vectors.md` T-ENC; decision D2, log entry 6),
the high byte first (R51). The last two clauses are about the model's own reader of a list of bytes
(log entry 26): it returns the bytes left over, and refuses a single byte as truncated. -/
def Obligations.SampleWordsDecode : Prop :=
  decode 0x00EE = .ret ∧ decode 0x1ABC = .jp 0xABC ∧ decode 0x2F00 = .call 0xF00 ∧
  decode 0x3C42 = .seImm 0xC 0x42 ∧ decode 0x4C42 = .sneImm 0xC 0x42 ∧
  decode 0x5AB0 = .seReg 0xA 0xB ∧ decode 0x5AB1 = .nop 0x5AB1 ∧ decode 0x6F07 = .ldImm 0xF 0x07 ∧
  decode 0x7001 = .addImm 0 0x01 ∧ decode 0x812E = .shl 1 2 ∧ decode 0x9AB0 = .sneReg 0xA 0xB ∧
  decode 0xA210 = .ldI 0x210 ∧ decode 0xB300 = .jpV0 0x300 ∧ decode 0xC10F = .rnd 1 0x0F ∧
  decode 0xD12A = .drw 1 2 0xA ∧ decode 0xE19E = .skp 1 ∧ decode 0xF215 = .ldDTVx 2 ∧
  decode 0xF365 = .ldVxMem 3 ∧ decodeBytes [0x12, 0x34, 0x56] = .ok (.jp 0x234, [0x56]) ∧
  decodeBytes [0x12] = .error .truncated
end

