-- ==== Sys2Proof/Laws/Decode.lean ====
section
/-!
SUPPORT. The fields of an encoded word, and the bytes of a word.
-/

namespace Sys2Proof

/-! ### The fields as numbers -/

theorem fieldF_toNat (op : Word) : (fieldF op).toNat = op.toNat / 4096 := by
  have := op.isLt
  simp [fieldF, Nat.shiftRight_eq_div_pow]; omega

theorem fieldX_toNat (op : Word) : (fieldX op).toNat = op.toNat / 256 % 16 := by
  simp [fieldX, Nat.shiftRight_eq_div_pow]

theorem fieldY_toNat (op : Word) : (fieldY op).toNat = op.toNat / 16 % 16 := by
  simp [fieldY, Nat.shiftRight_eq_div_pow]

theorem fieldN_toNat (op : Word) : (fieldN op).toNat = op.toNat % 16 := by simp [fieldN]

theorem fieldKK_toNat (op : Word) : (fieldKK op).toNat = op.toNat % 256 := by simp [fieldKK]

theorem fieldNNN_toNat (op : Word) : (fieldNNN op).toNat = op.toNat % 4096 := by simp [fieldNNN]

/-! ### The formats as numbers -/

theorem toNat_append' {v w : Nat} (a : BitVec v) (b : BitVec w) :
    (a ++ b).toNat = a.toNat * 2 ^ w + b.toNat := by
  rw [BitVec.toNat_append, ← Nat.shiftLeft_add_eq_or_of_lt b.isLt, Nat.shiftLeft_eq]

theorem formatNNN_toNat (f : Nibble) (nnn : Addr12) :
    (formatNNN f nnn).toNat = f.toNat * 4096 + nnn.toNat := by
  have h : (formatNNN f nnn).toNat = f.toNat * 2 ^ 12 + nnn.toNat := toNat_append' f nnn
  omega

theorem formatXKK_toNat (f x : Nibble) (kk : Byte) :
    (formatXKK f x kk).toNat = f.toNat * 4096 + x.toNat * 256 + kk.toNat := by
  have h : (formatXKK f x kk).toNat = (f ++ x).toNat * 256 + kk.toNat := toNat_append' (f ++ x) kk
  rw [h, toNat_append' f x]; ring

theorem formatXYN_toNat (f x y n : Nibble) :
    (formatXYN f x y n).toNat = f.toNat * 4096 + x.toNat * 256 + y.toNat * 16 + n.toNat := by
  have h : (formatXYN f x y n).toNat = (f ++ x ++ y).toNat * 16 + n.toNat :=
    toNat_append' (f ++ x ++ y) n
  rw [h, toNat_append' (f ++ x) y, toNat_append' f x]; ring

/-! ### The fields of a format -/

section
variable (f x y n : Nibble) (kk : Byte) (nnn : Addr12)

@[simp] theorem fieldF_formatNNN : fieldF (formatNNN f nnn) = f := by
  apply BitVec.eq_of_toNat_eq; rw [fieldF_toNat, formatNNN_toNat]; omega

@[simp] theorem fieldNNN_formatNNN : fieldNNN (formatNNN f nnn) = nnn := by
  apply BitVec.eq_of_toNat_eq; rw [fieldNNN_toNat, formatNNN_toNat]; omega

@[simp] theorem fieldF_formatXKK : fieldF (formatXKK f x kk) = f := by
  apply BitVec.eq_of_toNat_eq; rw [fieldF_toNat, formatXKK_toNat]; omega

@[simp] theorem fieldX_formatXKK : fieldX (formatXKK f x kk) = x := by
  apply BitVec.eq_of_toNat_eq; rw [fieldX_toNat, formatXKK_toNat]; omega

@[simp] theorem fieldKK_formatXKK : fieldKK (formatXKK f x kk) = kk := by
  apply BitVec.eq_of_toNat_eq; rw [fieldKK_toNat, formatXKK_toNat]; omega

@[simp] theorem fieldF_formatXYN : fieldF (formatXYN f x y n) = f := by
  apply BitVec.eq_of_toNat_eq; rw [fieldF_toNat, formatXYN_toNat]; omega

@[simp] theorem fieldX_formatXYN : fieldX (formatXYN f x y n) = x := by
  apply BitVec.eq_of_toNat_eq; rw [fieldX_toNat, formatXYN_toNat]; omega

@[simp] theorem fieldY_formatXYN : fieldY (formatXYN f x y n) = y := by
  apply BitVec.eq_of_toNat_eq; rw [fieldY_toNat, formatXYN_toNat]; omega

@[simp] theorem fieldN_formatXYN : fieldN (formatXYN f x y n) = n := by
  apply BitVec.eq_of_toNat_eq; rw [fieldN_toNat, formatXYN_toNat]; omega
end

/-- A word is the one its fields make, whichever format they are read by. -/
theorem formatNNN_fields (op : Word) : formatNNN (fieldF op) (fieldNNN op) = op := by
  apply BitVec.eq_of_toNat_eq; rw [formatNNN_toNat, fieldF_toNat, fieldNNN_toNat]; omega

theorem formatXKK_fields (op : Word) : formatXKK (fieldF op) (fieldX op) (fieldKK op) = op := by
  apply BitVec.eq_of_toNat_eq
  rw [formatXKK_toNat, fieldF_toNat, fieldX_toNat, fieldKK_toNat]; omega

theorem formatXYN_fields (op : Word) :
    formatXYN (fieldF op) (fieldX op) (fieldY op) (fieldN op) = op := by
  apply BitVec.eq_of_toNat_eq
  rw [formatXYN_toNat, fieldF_toNat, fieldX_toNat, fieldY_toNat, fieldN_toNat]; omega

/-! ### A mask keeps the fixed digits of a format (R73) -/

theorem formatNNN_and (f g : Nibble) (a b : Addr12) :
    formatNNN f a &&& formatNNN g b = formatNNN (f &&& g) (a &&& b) := BitVec.and_append

theorem formatXKK_and (f g x z : Nibble) (a b : Byte) :
    formatXKK f x a &&& formatXKK g z b = formatXKK (f &&& g) (x &&& z) (a &&& b) :=
  BitVec.and_append.trans (congrArg (· ++ (a &&& b)) BitVec.and_append)

theorem formatXYN_and (f g x z y u n m : Nibble) :
    formatXYN f x y n &&& formatXYN g z u m =
      formatXYN (f &&& g) (x &&& z) (y &&& u) (n &&& m) :=
  BitVec.and_append.trans (congrArg (· ++ (n &&& m))
    (BitVec.and_append.trans (congrArg (· ++ (y &&& u)) BitVec.and_append)))

/-! ### Bytes of a word (R51) -/

theorem wordOfBytes_toNat (hi lo : Byte) :
    (wordOfBytes hi lo).toNat = hi.toNat * 256 + lo.toNat := toNat_append' hi lo

@[simp] theorem wordOfBytes_bytes (op : Word) : wordOfBytes (highByte op) (lowByte op) = op := by
  apply BitVec.eq_of_toNat_eq
  have := op.isLt
  rw [wordOfBytes_toNat]; simp [highByte, lowByte, Nat.shiftRight_eq_div_pow]; omega

end Sys2Proof
end

