-- ==== Sys2Proof/Laws/State.lean ====
section
/-!
SUPPORT. What each update of the state leaves in each field, one lemma per field per update, all true
by definition, so that no proof unfolds a record update.
-/

namespace Sys2Proof.Machine

variable (s : State)

/-! ### setReg -/

@[simp] theorem State.setReg_mem (x : Nibble) (b : Byte) : (s.setReg x b).mem = s.mem := rfl
@[simp] theorem State.setReg_v (x : Nibble) (b : Byte) :
    (s.setReg x b).v = s.v.set x.toNat b (nibble_lt x) := rfl
@[simp] theorem State.setReg_i (x : Nibble) (b : Byte) : (s.setReg x b).i = s.i := rfl
@[simp] theorem State.setReg_pc (x : Nibble) (b : Byte) : (s.setReg x b).pc = s.pc := rfl
@[simp] theorem State.setReg_stack (x : Nibble) (b : Byte) : (s.setReg x b).stack = s.stack := rfl
@[simp] theorem State.setReg_sp (x : Nibble) (b : Byte) : (s.setReg x b).sp = s.sp := rfl
@[simp] theorem State.setReg_fb (x : Nibble) (b : Byte) : (s.setReg x b).fb = s.fb := rfl
@[simp] theorem State.setReg_draw (x : Nibble) (b : Byte) : (s.setReg x b).draw = s.draw := rfl
@[simp] theorem State.setReg_dt (x : Nibble) (b : Byte) : (s.setReg x b).dt = s.dt := rfl
@[simp] theorem State.setReg_st (x : Nibble) (b : Byte) : (s.setReg x b).st = s.st := rfl
@[simp] theorem State.setReg_fault (x : Nibble) (b : Byte) : (s.setReg x b).fault = s.fault := rfl
@[simp] theorem State.setReg_faultInfo (x : Nibble) (b : Byte) :
    (s.setReg x b).faultInfo = s.faultInfo := rfl
@[simp] theorem State.setReg_inputs (x : Nibble) (b : Byte) : (s.setReg x b).inputs = s.inputs := rfl
@[simp] theorem State.setReg_inputNo (x : Nibble) (b : Byte) : (s.setReg x b).inputNo = s.inputNo := rfl

/-! ### setRegsBelow -/

@[simp] theorem State.setRegsBelow_mem (c : Nat) (l : List Byte) :
    (s.setRegsBelow c l).mem = s.mem := rfl
@[simp] theorem State.setRegsBelow_v (c : Nat) (l : List Byte) :
    (s.setRegsBelow c l).v = Vector.ofFn fun k : Fin 16 => if k.val < c then l.getD k.val 0 else s.v[k] := rfl
@[simp] theorem State.setRegsBelow_i (c : Nat) (l : List Byte) : (s.setRegsBelow c l).i = s.i := rfl
@[simp] theorem State.setRegsBelow_pc (c : Nat) (l : List Byte) : (s.setRegsBelow c l).pc = s.pc := rfl
@[simp] theorem State.setRegsBelow_stack (c : Nat) (l : List Byte) :
    (s.setRegsBelow c l).stack = s.stack := rfl
@[simp] theorem State.setRegsBelow_sp (c : Nat) (l : List Byte) : (s.setRegsBelow c l).sp = s.sp := rfl
@[simp] theorem State.setRegsBelow_fb (c : Nat) (l : List Byte) : (s.setRegsBelow c l).fb = s.fb := rfl
@[simp] theorem State.setRegsBelow_draw (c : Nat) (l : List Byte) :
    (s.setRegsBelow c l).draw = s.draw := rfl
@[simp] theorem State.setRegsBelow_dt (c : Nat) (l : List Byte) : (s.setRegsBelow c l).dt = s.dt := rfl
@[simp] theorem State.setRegsBelow_st (c : Nat) (l : List Byte) : (s.setRegsBelow c l).st = s.st := rfl
@[simp] theorem State.setRegsBelow_fault (c : Nat) (l : List Byte) :
    (s.setRegsBelow c l).fault = s.fault := rfl
@[simp] theorem State.setRegsBelow_faultInfo (c : Nat) (l : List Byte) :
    (s.setRegsBelow c l).faultInfo = s.faultInfo := rfl
@[simp] theorem State.setRegsBelow_inputs (c : Nat) (l : List Byte) :
    (s.setRegsBelow c l).inputs = s.inputs := rfl
@[simp] theorem State.setRegsBelow_inputNo (c : Nat) (l : List Byte) :
    (s.setRegsBelow c l).inputNo = s.inputNo := rfl

/-! ### setIndex -/

@[simp] theorem State.setIndex_mem (a : Word) : (s.setIndex a).mem = s.mem := rfl
@[simp] theorem State.setIndex_v (a : Word) : (s.setIndex a).v = s.v := rfl
@[simp] theorem State.setIndex_i (a : Word) : (s.setIndex a).i = a := rfl
@[simp] theorem State.setIndex_pc (a : Word) : (s.setIndex a).pc = s.pc := rfl
@[simp] theorem State.setIndex_stack (a : Word) : (s.setIndex a).stack = s.stack := rfl
@[simp] theorem State.setIndex_sp (a : Word) : (s.setIndex a).sp = s.sp := rfl
@[simp] theorem State.setIndex_fb (a : Word) : (s.setIndex a).fb = s.fb := rfl
@[simp] theorem State.setIndex_draw (a : Word) : (s.setIndex a).draw = s.draw := rfl
@[simp] theorem State.setIndex_dt (a : Word) : (s.setIndex a).dt = s.dt := rfl
@[simp] theorem State.setIndex_st (a : Word) : (s.setIndex a).st = s.st := rfl
@[simp] theorem State.setIndex_fault (a : Word) : (s.setIndex a).fault = s.fault := rfl
@[simp] theorem State.setIndex_faultInfo (a : Word) : (s.setIndex a).faultInfo = s.faultInfo := rfl
@[simp] theorem State.setIndex_inputs (a : Word) : (s.setIndex a).inputs = s.inputs := rfl
@[simp] theorem State.setIndex_inputNo (a : Word) : (s.setIndex a).inputNo = s.inputNo := rfl

/-! ### setPc -/

@[simp] theorem State.setPc_mem (a : Word) : (s.setPc a).mem = s.mem := rfl
@[simp] theorem State.setPc_v (a : Word) : (s.setPc a).v = s.v := rfl
@[simp] theorem State.setPc_i (a : Word) : (s.setPc a).i = s.i := rfl
@[simp] theorem State.setPc_pc (a : Word) : (s.setPc a).pc = a := rfl
@[simp] theorem State.setPc_stack (a : Word) : (s.setPc a).stack = s.stack := rfl
@[simp] theorem State.setPc_sp (a : Word) : (s.setPc a).sp = s.sp := rfl
@[simp] theorem State.setPc_fb (a : Word) : (s.setPc a).fb = s.fb := rfl
@[simp] theorem State.setPc_draw (a : Word) : (s.setPc a).draw = s.draw := rfl
@[simp] theorem State.setPc_dt (a : Word) : (s.setPc a).dt = s.dt := rfl
@[simp] theorem State.setPc_st (a : Word) : (s.setPc a).st = s.st := rfl
@[simp] theorem State.setPc_fault (a : Word) : (s.setPc a).fault = s.fault := rfl
@[simp] theorem State.setPc_faultInfo (a : Word) : (s.setPc a).faultInfo = s.faultInfo := rfl
@[simp] theorem State.setPc_inputs (a : Word) : (s.setPc a).inputs = s.inputs := rfl
@[simp] theorem State.setPc_inputNo (a : Word) : (s.setPc a).inputNo = s.inputNo := rfl

/-! ### advance -/

@[simp] theorem State.advance_mem : s.advance.mem = s.mem := rfl
@[simp] theorem State.advance_v : s.advance.v = s.v := rfl
@[simp] theorem State.advance_i : s.advance.i = s.i := rfl
@[simp] theorem State.advance_pc : s.advance.pc = s.pc + 2 := rfl
@[simp] theorem State.advance_stack : s.advance.stack = s.stack := rfl
@[simp] theorem State.advance_sp : s.advance.sp = s.sp := rfl
@[simp] theorem State.advance_fb : s.advance.fb = s.fb := rfl
@[simp] theorem State.advance_draw : s.advance.draw = s.draw := rfl
@[simp] theorem State.advance_dt : s.advance.dt = s.dt := rfl
@[simp] theorem State.advance_st : s.advance.st = s.st := rfl
@[simp] theorem State.advance_fault : s.advance.fault = s.fault := rfl
@[simp] theorem State.advance_faultInfo : s.advance.faultInfo = s.faultInfo := rfl
@[simp] theorem State.advance_inputs : s.advance.inputs = s.inputs := rfl
@[simp] theorem State.advance_inputNo : s.advance.inputNo = s.inputNo := rfl

/-! ### skipIf -/

@[simp] theorem State.skipIf_mem (c : Bool) : (s.skipIf c).mem = s.mem := rfl
@[simp] theorem State.skipIf_v (c : Bool) : (s.skipIf c).v = s.v := rfl
@[simp] theorem State.skipIf_i (c : Bool) : (s.skipIf c).i = s.i := rfl
@[simp] theorem State.skipIf_pc (c : Bool) : (s.skipIf c).pc = if c then s.pc + 4 else s.pc + 2 := rfl
@[simp] theorem State.skipIf_stack (c : Bool) : (s.skipIf c).stack = s.stack := rfl
@[simp] theorem State.skipIf_sp (c : Bool) : (s.skipIf c).sp = s.sp := rfl
@[simp] theorem State.skipIf_fb (c : Bool) : (s.skipIf c).fb = s.fb := rfl
@[simp] theorem State.skipIf_draw (c : Bool) : (s.skipIf c).draw = s.draw := rfl
@[simp] theorem State.skipIf_dt (c : Bool) : (s.skipIf c).dt = s.dt := rfl
@[simp] theorem State.skipIf_st (c : Bool) : (s.skipIf c).st = s.st := rfl
@[simp] theorem State.skipIf_fault (c : Bool) : (s.skipIf c).fault = s.fault := rfl
@[simp] theorem State.skipIf_faultInfo (c : Bool) : (s.skipIf c).faultInfo = s.faultInfo := rfl
@[simp] theorem State.skipIf_inputs (c : Bool) : (s.skipIf c).inputs = s.inputs := rfl
@[simp] theorem State.skipIf_inputNo (c : Bool) : (s.skipIf c).inputNo = s.inputNo := rfl

/-! ### setDelay -/

@[simp] theorem State.setDelay_mem (b : Byte) : (s.setDelay b).mem = s.mem := rfl
@[simp] theorem State.setDelay_v (b : Byte) : (s.setDelay b).v = s.v := rfl
@[simp] theorem State.setDelay_i (b : Byte) : (s.setDelay b).i = s.i := rfl
@[simp] theorem State.setDelay_pc (b : Byte) : (s.setDelay b).pc = s.pc := rfl
@[simp] theorem State.setDelay_stack (b : Byte) : (s.setDelay b).stack = s.stack := rfl
@[simp] theorem State.setDelay_sp (b : Byte) : (s.setDelay b).sp = s.sp := rfl
@[simp] theorem State.setDelay_fb (b : Byte) : (s.setDelay b).fb = s.fb := rfl
@[simp] theorem State.setDelay_draw (b : Byte) : (s.setDelay b).draw = s.draw := rfl
@[simp] theorem State.setDelay_dt (b : Byte) : (s.setDelay b).dt = b := rfl
@[simp] theorem State.setDelay_st (b : Byte) : (s.setDelay b).st = s.st := rfl
@[simp] theorem State.setDelay_fault (b : Byte) : (s.setDelay b).fault = s.fault := rfl
@[simp] theorem State.setDelay_faultInfo (b : Byte) : (s.setDelay b).faultInfo = s.faultInfo := rfl
@[simp] theorem State.setDelay_inputs (b : Byte) : (s.setDelay b).inputs = s.inputs := rfl
@[simp] theorem State.setDelay_inputNo (b : Byte) : (s.setDelay b).inputNo = s.inputNo := rfl

/-! ### setSound -/

@[simp] theorem State.setSound_mem (b : Byte) : (s.setSound b).mem = s.mem := rfl
@[simp] theorem State.setSound_v (b : Byte) : (s.setSound b).v = s.v := rfl
@[simp] theorem State.setSound_i (b : Byte) : (s.setSound b).i = s.i := rfl
@[simp] theorem State.setSound_pc (b : Byte) : (s.setSound b).pc = s.pc := rfl
@[simp] theorem State.setSound_stack (b : Byte) : (s.setSound b).stack = s.stack := rfl
@[simp] theorem State.setSound_sp (b : Byte) : (s.setSound b).sp = s.sp := rfl
@[simp] theorem State.setSound_fb (b : Byte) : (s.setSound b).fb = s.fb := rfl
@[simp] theorem State.setSound_draw (b : Byte) : (s.setSound b).draw = s.draw := rfl
@[simp] theorem State.setSound_dt (b : Byte) : (s.setSound b).dt = s.dt := rfl
@[simp] theorem State.setSound_st (b : Byte) : (s.setSound b).st = b := rfl
@[simp] theorem State.setSound_fault (b : Byte) : (s.setSound b).fault = s.fault := rfl
@[simp] theorem State.setSound_faultInfo (b : Byte) : (s.setSound b).faultInfo = s.faultInfo := rfl
@[simp] theorem State.setSound_inputs (b : Byte) : (s.setSound b).inputs = s.inputs := rfl
@[simp] theorem State.setSound_inputNo (b : Byte) : (s.setSound b).inputNo = s.inputNo := rfl

/-! ### setMem -/

@[simp] theorem State.setMem_mem (m : Memory) : (s.setMem m).mem = m := rfl
@[simp] theorem State.setMem_v (m : Memory) : (s.setMem m).v = s.v := rfl
@[simp] theorem State.setMem_i (m : Memory) : (s.setMem m).i = s.i := rfl
@[simp] theorem State.setMem_pc (m : Memory) : (s.setMem m).pc = s.pc := rfl
@[simp] theorem State.setMem_stack (m : Memory) : (s.setMem m).stack = s.stack := rfl
@[simp] theorem State.setMem_sp (m : Memory) : (s.setMem m).sp = s.sp := rfl
@[simp] theorem State.setMem_fb (m : Memory) : (s.setMem m).fb = s.fb := rfl
@[simp] theorem State.setMem_draw (m : Memory) : (s.setMem m).draw = s.draw := rfl
@[simp] theorem State.setMem_dt (m : Memory) : (s.setMem m).dt = s.dt := rfl
@[simp] theorem State.setMem_st (m : Memory) : (s.setMem m).st = s.st := rfl
@[simp] theorem State.setMem_fault (m : Memory) : (s.setMem m).fault = s.fault := rfl
@[simp] theorem State.setMem_faultInfo (m : Memory) : (s.setMem m).faultInfo = s.faultInfo := rfl
@[simp] theorem State.setMem_inputs (m : Memory) : (s.setMem m).inputs = s.inputs := rfl
@[simp] theorem State.setMem_inputNo (m : Memory) : (s.setMem m).inputNo = s.inputNo := rfl

/-! ### push -/

@[simp] theorem State.push_mem (a : Word) : (s.push a).mem = s.mem := rfl
@[simp] theorem State.push_v (a : Word) : (s.push a).v = s.v := rfl
@[simp] theorem State.push_i (a : Word) : (s.push a).i = s.i := rfl
@[simp] theorem State.push_pc (a : Word) : (s.push a).pc = s.pc := rfl
@[simp] theorem State.push_stack (a : Word) :
    (s.push a).stack = s.stack.set (s.sp + 1).toNat a (nibble_lt (s.sp + 1)) := rfl
@[simp] theorem State.push_sp (a : Word) : (s.push a).sp = s.sp + 1 := rfl
@[simp] theorem State.push_fb (a : Word) : (s.push a).fb = s.fb := rfl
@[simp] theorem State.push_draw (a : Word) : (s.push a).draw = s.draw := rfl
@[simp] theorem State.push_dt (a : Word) : (s.push a).dt = s.dt := rfl
@[simp] theorem State.push_st (a : Word) : (s.push a).st = s.st := rfl
@[simp] theorem State.push_fault (a : Word) : (s.push a).fault = s.fault := rfl
@[simp] theorem State.push_faultInfo (a : Word) : (s.push a).faultInfo = s.faultInfo := rfl
@[simp] theorem State.push_inputs (a : Word) : (s.push a).inputs = s.inputs := rfl
@[simp] theorem State.push_inputNo (a : Word) : (s.push a).inputNo = s.inputNo := rfl

/-! ### pop -/

@[simp] theorem State.pop_mem : s.pop.mem = s.mem := rfl
@[simp] theorem State.pop_v : s.pop.v = s.v := rfl
@[simp] theorem State.pop_i : s.pop.i = s.i := rfl
@[simp] theorem State.pop_pc : s.pop.pc = s.pc := rfl
@[simp] theorem State.pop_stack : s.pop.stack = s.stack := rfl
@[simp] theorem State.pop_sp : s.pop.sp = s.sp - 1 := rfl
@[simp] theorem State.pop_fb : s.pop.fb = s.fb := rfl
@[simp] theorem State.pop_draw : s.pop.draw = s.draw := rfl
@[simp] theorem State.pop_dt : s.pop.dt = s.dt := rfl
@[simp] theorem State.pop_st : s.pop.st = s.st := rfl
@[simp] theorem State.pop_fault : s.pop.fault = s.fault := rfl
@[simp] theorem State.pop_faultInfo : s.pop.faultInfo = s.faultInfo := rfl
@[simp] theorem State.pop_inputs : s.pop.inputs = s.inputs := rfl
@[simp] theorem State.pop_inputNo : s.pop.inputNo = s.inputNo := rfl

/-! ### display -/

@[simp] theorem State.display_mem (f : Framebuffer) : (s.display f).mem = s.mem := rfl
@[simp] theorem State.display_v (f : Framebuffer) : (s.display f).v = s.v := rfl
@[simp] theorem State.display_i (f : Framebuffer) : (s.display f).i = s.i := rfl
@[simp] theorem State.display_pc (f : Framebuffer) : (s.display f).pc = s.pc := rfl
@[simp] theorem State.display_stack (f : Framebuffer) : (s.display f).stack = s.stack := rfl
@[simp] theorem State.display_sp (f : Framebuffer) : (s.display f).sp = s.sp := rfl
@[simp] theorem State.display_fb (f : Framebuffer) : (s.display f).fb = f := rfl
@[simp] theorem State.display_draw (f : Framebuffer) : (s.display f).draw = true := rfl
@[simp] theorem State.display_dt (f : Framebuffer) : (s.display f).dt = s.dt := rfl
@[simp] theorem State.display_st (f : Framebuffer) : (s.display f).st = s.st := rfl
@[simp] theorem State.display_fault (f : Framebuffer) : (s.display f).fault = s.fault := rfl
@[simp] theorem State.display_faultInfo (f : Framebuffer) : (s.display f).faultInfo = s.faultInfo := rfl
@[simp] theorem State.display_inputs (f : Framebuffer) : (s.display f).inputs = s.inputs := rfl
@[simp] theorem State.display_inputNo (f : Framebuffer) : (s.display f).inputNo = s.inputNo := rfl

/-! ### tick -/

@[simp] theorem State.tick_mem : s.tick.mem = s.mem := rfl
@[simp] theorem State.tick_v : s.tick.v = s.v := rfl
@[simp] theorem State.tick_i : s.tick.i = s.i := rfl
@[simp] theorem State.tick_pc : s.tick.pc = s.pc := rfl
@[simp] theorem State.tick_stack : s.tick.stack = s.stack := rfl
@[simp] theorem State.tick_sp : s.tick.sp = s.sp := rfl
@[simp] theorem State.tick_fb : s.tick.fb = s.fb := rfl
@[simp] theorem State.tick_draw : s.tick.draw = s.draw := rfl
@[simp] theorem State.tick_dt : s.tick.dt = tickDown s.dt := rfl
@[simp] theorem State.tick_st : s.tick.st = tickDown s.st := rfl
@[simp] theorem State.tick_fault : s.tick.fault = s.fault := rfl
@[simp] theorem State.tick_faultInfo : s.tick.faultInfo = s.faultInfo := rfl
@[simp] theorem State.tick_inputs : s.tick.inputs = s.inputs := rfl
@[simp] theorem State.tick_inputNo : s.tick.inputNo = s.inputNo := rfl

/-! ### raise -/

@[simp] theorem State.raise_mem (c : FaultCode) (w : Word) : (s.raise c w).mem = s.mem := rfl
@[simp] theorem State.raise_v (c : FaultCode) (w : Word) : (s.raise c w).v = s.v := rfl
@[simp] theorem State.raise_i (c : FaultCode) (w : Word) : (s.raise c w).i = s.i := rfl
@[simp] theorem State.raise_pc (c : FaultCode) (w : Word) : (s.raise c w).pc = s.pc := rfl
@[simp] theorem State.raise_stack (c : FaultCode) (w : Word) : (s.raise c w).stack = s.stack := rfl
@[simp] theorem State.raise_sp (c : FaultCode) (w : Word) : (s.raise c w).sp = s.sp := rfl
@[simp] theorem State.raise_fb (c : FaultCode) (w : Word) : (s.raise c w).fb = s.fb := rfl
@[simp] theorem State.raise_draw (c : FaultCode) (w : Word) : (s.raise c w).draw = s.draw := rfl
@[simp] theorem State.raise_dt (c : FaultCode) (w : Word) : (s.raise c w).dt = s.dt := rfl
@[simp] theorem State.raise_st (c : FaultCode) (w : Word) : (s.raise c w).st = s.st := rfl
@[simp] theorem State.raise_fault (c : FaultCode) (w : Word) : (s.raise c w).fault = c := rfl
@[simp] theorem State.raise_faultInfo (c : FaultCode) (w : Word) : (s.raise c w).faultInfo = w := rfl
@[simp] theorem State.raise_inputs (c : FaultCode) (w : Word) : (s.raise c w).inputs = s.inputs := rfl
@[simp] theorem State.raise_inputNo (c : FaultCode) (w : Word) :
    (s.raise c w).inputNo = s.inputNo := rfl

/-! ### enter -/

@[simp] theorem State.enter_mem : s.enter.mem = s.mem := rfl
@[simp] theorem State.enter_v : s.enter.v = s.v := rfl
@[simp] theorem State.enter_i : s.enter.i = s.i := rfl
@[simp] theorem State.enter_pc : s.enter.pc = s.pc := rfl
@[simp] theorem State.enter_stack : s.enter.stack = s.stack := rfl
@[simp] theorem State.enter_sp : s.enter.sp = s.sp := rfl
@[simp] theorem State.enter_fb : s.enter.fb = s.fb := rfl
@[simp] theorem State.enter_draw : s.enter.draw = false := rfl
@[simp] theorem State.enter_dt : s.enter.dt = s.dt := rfl
@[simp] theorem State.enter_st : s.enter.st = s.st := rfl
@[simp] theorem State.enter_fault : s.enter.fault = s.fault := rfl
@[simp] theorem State.enter_faultInfo : s.enter.faultInfo = s.faultInfo := rfl
@[simp] theorem State.enter_inputs : s.enter.inputs = s.inputs := rfl
@[simp] theorem State.enter_inputNo : s.enter.inputNo = s.inputNo := rfl

/-! ### nextInput -/

@[simp] theorem State.nextInput_mem : s.nextInput.mem = s.mem := rfl
@[simp] theorem State.nextInput_v : s.nextInput.v = s.v := rfl
@[simp] theorem State.nextInput_i : s.nextInput.i = s.i := rfl
@[simp] theorem State.nextInput_pc : s.nextInput.pc = s.pc := rfl
@[simp] theorem State.nextInput_stack : s.nextInput.stack = s.stack := rfl
@[simp] theorem State.nextInput_sp : s.nextInput.sp = s.sp := rfl
@[simp] theorem State.nextInput_fb : s.nextInput.fb = s.fb := rfl
@[simp] theorem State.nextInput_draw : s.nextInput.draw = s.draw := rfl
@[simp] theorem State.nextInput_dt : s.nextInput.dt = s.dt := rfl
@[simp] theorem State.nextInput_st : s.nextInput.st = s.st := rfl
@[simp] theorem State.nextInput_fault : s.nextInput.fault = s.fault := rfl
@[simp] theorem State.nextInput_faultInfo : s.nextInput.faultInfo = s.faultInfo := rfl
@[simp] theorem State.nextInput_inputs : s.nextInput.inputs = s.inputs.tail := rfl
@[simp] theorem State.nextInput_inputNo : s.nextInput.inputNo = s.inputNo + 1 := rfl

end Sys2Proof.Machine
end

