-- ==== Sys2Proof/Laws/Ops.lean ====
section
/-!
SUPPORT. What each shared operation does, said once: registers, the flag order, the timers, the two
checks that can fault, and the key scan.
-/

namespace Sys2Proof.Machine

variable (s : State)

/-! ### Registers (R21) -/

/-- Reading a register after a write of one. -/
theorem State.reg_setReg (x y : Nibble) (b : Byte) :
    (s.setReg x b).reg y = if y = x then b else s.reg y := by
  simp only [State.reg, State.setReg, Vector.getElem_set]
  by_cases h : y = x
  · simp [h]
  · have : x.toNat ≠ y.toNat := fun e => h (BitVec.eq_of_toNat_eq e.symm)
    simp [h, this]

/-- Reading a register after a block load. -/
theorem State.reg_setRegsBelow (c : Nat) (l : List Byte) (y : Nibble) :
    (s.setRegsBelow c l).reg y = if y.toNat < c then l.getD y.toNat 0 else s.reg y := by
  simp [State.reg, State.setRegsBelow]

/-- The registers below a count, as a list. -/
theorem State.length_regsBelow (c : Nibble) : (s.regsBelow c.toNat).length = c.toNat := by
  have := nibble_lt c
  simp [State.regsBelow]; omega

theorem State.getD_regsBelow (c y : Nibble) (d : Byte) (h : y.toNat < c.toNat) :
    (s.regsBelow c.toNat).getD y.toNat d = s.reg y := by
  have := nibble_lt y
  simp [State.regsBelow, State.reg, List.getD, h, Vector.getElem?_eq_getElem this]

/-- Reading a register after the two writes of R110: the result covers the flag. -/
theorem State.reg_setFlagThenReg (c : Bool) (x y : Nibble) (b : Byte) :
    (s.setFlagThenReg c x b).reg y = if y = x then b else if y = 15 then flagByte c else s.reg y := by
  simp [State.setFlagThenReg, State.setFlag, State.reg_setReg, flagReg]

/-! ### Updates that leave the registers alone -/

@[simp] theorem State.reg_setIndex (a : Word) (y : Nibble) : (s.setIndex a).reg y = s.reg y := rfl
@[simp] theorem State.reg_setPc (a : Word) (y : Nibble) : (s.setPc a).reg y = s.reg y := rfl
@[simp] theorem State.reg_advance (y : Nibble) : (s.advance).reg y = s.reg y := rfl
@[simp] theorem State.reg_skipIf (c : Bool) (y : Nibble) : (s.skipIf c).reg y = s.reg y := rfl
@[simp] theorem State.reg_setDelay (b : Byte) (y : Nibble) : (s.setDelay b).reg y = s.reg y := rfl
@[simp] theorem State.reg_setSound (b : Byte) (y : Nibble) : (s.setSound b).reg y = s.reg y := rfl
@[simp] theorem State.reg_setMem (m : Memory) (y : Nibble) : (s.setMem m).reg y = s.reg y := rfl
@[simp] theorem State.reg_push (a : Word) (y : Nibble) : (s.push a).reg y = s.reg y := rfl
@[simp] theorem State.reg_pop (y : Nibble) : (s.pop).reg y = s.reg y := rfl
@[simp] theorem State.reg_display (f : Framebuffer) (y : Nibble) : (s.display f).reg y = s.reg y := rfl
@[simp] theorem State.reg_tick (y : Nibble) : (s.tick).reg y = s.reg y := rfl
@[simp] theorem State.reg_raise (c : FaultCode) (w : Word) (y : Nibble) : (s.raise c w).reg y = s.reg y := rfl
@[simp] theorem State.reg_enter (y : Nibble) : (s.enter).reg y = s.reg y := rfl
@[simp] theorem State.reg_nextInput (y : Nibble) : (s.nextInput).reg y = s.reg y := rfl

/-! ### The inputs of the step -/

@[simp] theorem State.keys_setIndex (a : Word) : (s.setIndex a).keys = s.keys := rfl
@[simp] theorem State.rnd_setIndex (a : Word) : (s.setIndex a).rnd = s.rnd := rfl
@[simp] theorem State.keys_setPc (a : Word) : (s.setPc a).keys = s.keys := rfl
@[simp] theorem State.rnd_setPc (a : Word) : (s.setPc a).rnd = s.rnd := rfl
@[simp] theorem State.keys_advance : (s.advance).keys = s.keys := rfl
@[simp] theorem State.rnd_advance : (s.advance).rnd = s.rnd := rfl
@[simp] theorem State.keys_skipIf (c : Bool) : (s.skipIf c).keys = s.keys := rfl
@[simp] theorem State.rnd_skipIf (c : Bool) : (s.skipIf c).rnd = s.rnd := rfl
@[simp] theorem State.keys_setDelay (b : Byte) : (s.setDelay b).keys = s.keys := rfl
@[simp] theorem State.rnd_setDelay (b : Byte) : (s.setDelay b).rnd = s.rnd := rfl
@[simp] theorem State.keys_setSound (b : Byte) : (s.setSound b).keys = s.keys := rfl
@[simp] theorem State.rnd_setSound (b : Byte) : (s.setSound b).rnd = s.rnd := rfl
@[simp] theorem State.keys_setMem (m : Memory) : (s.setMem m).keys = s.keys := rfl
@[simp] theorem State.rnd_setMem (m : Memory) : (s.setMem m).rnd = s.rnd := rfl
@[simp] theorem State.keys_push (a : Word) : (s.push a).keys = s.keys := rfl
@[simp] theorem State.rnd_push (a : Word) : (s.push a).rnd = s.rnd := rfl
@[simp] theorem State.keys_pop : (s.pop).keys = s.keys := rfl
@[simp] theorem State.rnd_pop : (s.pop).rnd = s.rnd := rfl
@[simp] theorem State.keys_display (f : Framebuffer) : (s.display f).keys = s.keys := rfl
@[simp] theorem State.rnd_display (f : Framebuffer) : (s.display f).rnd = s.rnd := rfl
@[simp] theorem State.keys_tick : (s.tick).keys = s.keys := rfl
@[simp] theorem State.rnd_tick : (s.tick).rnd = s.rnd := rfl
@[simp] theorem State.keys_raise (c : FaultCode) (w : Word) : (s.raise c w).keys = s.keys := rfl
@[simp] theorem State.rnd_raise (c : FaultCode) (w : Word) : (s.raise c w).rnd = s.rnd := rfl
@[simp] theorem State.keys_enter : (s.enter).keys = s.keys := rfl
@[simp] theorem State.rnd_enter : (s.enter).rnd = s.rnd := rfl
@[simp] theorem State.keys_setReg (x : Nibble) (b : Byte) : (s.setReg x b).keys = s.keys := rfl
@[simp] theorem State.rnd_setReg (x : Nibble) (b : Byte) : (s.setReg x b).rnd = s.rnd := rfl
@[simp] theorem State.keys_setRegsBelow (c : Nat) (l : List Byte) : (s.setRegsBelow c l).keys = s.keys := rfl
@[simp] theorem State.rnd_setRegsBelow (c : Nat) (l : List Byte) : (s.setRegsBelow c l).rnd = s.rnd := rfl
@[simp] theorem State.keys_setFlag (c : Bool) : (s.setFlag c).keys = s.keys := rfl
@[simp] theorem State.rnd_setFlag (c : Bool) : (s.setFlag c).rnd = s.rnd := rfl
@[simp] theorem State.keys_setFlagThenReg (c : Bool) (x : Nibble) (b : Byte) : (s.setFlagThenReg c x b).keys = s.keys := rfl
@[simp] theorem State.rnd_setFlagThenReg (c : Bool) (x : Nibble) (b : Byte) : (s.setFlagThenReg c x b).rnd = s.rnd := rfl

/-! ### What the two writes of R110 leave alone -/

@[simp] theorem State.setFlag_mem (c : Bool) : (s.setFlag c).mem = s.mem := rfl
@[simp] theorem State.setFlagThenReg_mem (c : Bool) (x : Nibble) (b : Byte) :
    (s.setFlagThenReg c x b).mem = s.mem := rfl
@[simp] theorem State.setFlag_i (c : Bool) : (s.setFlag c).i = s.i := rfl
@[simp] theorem State.setFlagThenReg_i (c : Bool) (x : Nibble) (b : Byte) :
    (s.setFlagThenReg c x b).i = s.i := rfl
@[simp] theorem State.setFlag_pc (c : Bool) : (s.setFlag c).pc = s.pc := rfl
@[simp] theorem State.setFlagThenReg_pc (c : Bool) (x : Nibble) (b : Byte) :
    (s.setFlagThenReg c x b).pc = s.pc := rfl
@[simp] theorem State.setFlag_stack (c : Bool) : (s.setFlag c).stack = s.stack := rfl
@[simp] theorem State.setFlagThenReg_stack (c : Bool) (x : Nibble) (b : Byte) :
    (s.setFlagThenReg c x b).stack = s.stack := rfl
@[simp] theorem State.setFlag_sp (c : Bool) : (s.setFlag c).sp = s.sp := rfl
@[simp] theorem State.setFlagThenReg_sp (c : Bool) (x : Nibble) (b : Byte) :
    (s.setFlagThenReg c x b).sp = s.sp := rfl
@[simp] theorem State.setFlag_fb (c : Bool) : (s.setFlag c).fb = s.fb := rfl
@[simp] theorem State.setFlagThenReg_fb (c : Bool) (x : Nibble) (b : Byte) :
    (s.setFlagThenReg c x b).fb = s.fb := rfl
@[simp] theorem State.setFlag_draw (c : Bool) : (s.setFlag c).draw = s.draw := rfl
@[simp] theorem State.setFlagThenReg_draw (c : Bool) (x : Nibble) (b : Byte) :
    (s.setFlagThenReg c x b).draw = s.draw := rfl
@[simp] theorem State.setFlag_dt (c : Bool) : (s.setFlag c).dt = s.dt := rfl
@[simp] theorem State.setFlagThenReg_dt (c : Bool) (x : Nibble) (b : Byte) :
    (s.setFlagThenReg c x b).dt = s.dt := rfl
@[simp] theorem State.setFlag_st (c : Bool) : (s.setFlag c).st = s.st := rfl
@[simp] theorem State.setFlagThenReg_st (c : Bool) (x : Nibble) (b : Byte) :
    (s.setFlagThenReg c x b).st = s.st := rfl
@[simp] theorem State.setFlag_fault (c : Bool) : (s.setFlag c).fault = s.fault := rfl
@[simp] theorem State.setFlagThenReg_fault (c : Bool) (x : Nibble) (b : Byte) :
    (s.setFlagThenReg c x b).fault = s.fault := rfl
@[simp] theorem State.setFlag_faultInfo (c : Bool) : (s.setFlag c).faultInfo = s.faultInfo := rfl
@[simp] theorem State.setFlagThenReg_faultInfo (c : Bool) (x : Nibble) (b : Byte) :
    (s.setFlagThenReg c x b).faultInfo = s.faultInfo := rfl
@[simp] theorem State.setFlag_inputs (c : Bool) : (s.setFlag c).inputs = s.inputs := rfl
@[simp] theorem State.setFlagThenReg_inputs (c : Bool) (x : Nibble) (b : Byte) :
    (s.setFlagThenReg c x b).inputs = s.inputs := rfl
@[simp] theorem State.setFlag_inputNo (c : Bool) : (s.setFlag c).inputNo = s.inputNo := rfl
@[simp] theorem State.setFlagThenReg_inputNo (c : Bool) (x : Nibble) (b : Byte) :
    (s.setFlagThenReg c x b).inputNo = s.inputNo := rfl

theorem State.reg_setFlag (c : Bool) (y : Nibble) :
    (s.setFlag c).reg y = if y = 15 then flagByte c else s.reg y := by
  simp [State.setFlag, State.reg_setReg, flagReg]

/-! ### Timers (R95) -/

theorem tickDown_toNat (t : Byte) : (tickDown t).toNat = t.toNat - 1 := by
  unfold tickDown
  split
  · simp_all
  · have : t.toNat ≠ 0 := fun h => ‹¬t = 0› (BitVec.eq_of_toNat_eq h)
    have := t.isLt
    simp [BitVec.toNat_sub]; omega

/-! ### The two checks that can fault (R53, R150) -/

/-- The bounds check faults exactly when some byte would lie at 4096 or above. -/
theorem dataFault_eq_none {base : Word} {count : Nat} :
    dataFault base count = none ↔ count = 0 ∨ base.toNat + count ≤ Config.memSize := by
  unfold dataFault
  split
  · simp only [reduceCtorEq, false_iff]; omega
  · simp only [true_iff]; omega

theorem dataFault_eq_some {base : Word} {count : Nat} (h : count ≠ 0)
    (hb : Config.memSize < base.toNat + count) :
    dataFault base count = some (BitVec.ofNat 16 (max base.toNat Config.memSize)) :=
  if_pos ⟨h, by omega⟩

/-- Everything the bounds check can answer. -/
theorem withData_cases (count : Nat) (body : Result) :
    (count = 0 ∨ s.i.toNat + count ≤ Config.memSize) ∧ withData count s body = body ∨
    (count ≠ 0 ∧ Config.memSize < s.i.toNat + count) ∧ withData count s body =
      .next (s.raise .memOutOfBounds (BitVec.ofNat 16 (max s.i.toNat Config.memSize))) := by
  by_cases h : count = 0 ∨ s.i.toNat + count ≤ Config.memSize
  · exact .inl ⟨h, by rw [withData, dataFault_eq_none.2 h]⟩
  · have h' : count ≠ 0 ∧ Config.memSize < s.i.toNat + count := by omega
    exact .inr ⟨h', by rw [withData, dataFault_eq_some h'.1 h'.2]; rfl⟩

/-- Everything the key check can answer. -/
theorem withKey_cases (symbol : Byte) (body : Result) :
    symbol.toNat ≤ 15 ∧ withKey symbol s body = body ∨
    15 < symbol.toNat ∧ withKey symbol s body =
      .next (s.raise .keyIndexOutOfRange (zextByte symbol)) := by
  by_cases h : 15 < symbol.toNat
  · exact .inr ⟨h, if_pos h⟩
  · exact .inl ⟨by omega, if_neg h⟩

/-! ### The key scan (R152) -/

/-- The scan of the first `n` keys finds the last one down among them. -/
theorem scan_spec (keys : Word) (n : Nat) (hn : n ≤ 16) :
    let found := (List.range n).foldl
      (fun found k => if keyDown keys k then some (BitVec.ofNat 8 k) else found) (none : Option Byte)
    (found = none ∧ ∀ k < n, keyDown keys k = false) ∨
    ∃ b, found = some b ∧ b.toNat < n ∧ keyDown keys b.toNat = true ∧
      ∀ k < n, b.toNat < k → keyDown keys k = false := by
  induction n with
  | zero => exact .inl ⟨rfl, fun k hk => absurd hk (Nat.not_lt_zero k)⟩
  | succ n ih =>
    simp only [List.range_succ, List.foldl_append, List.foldl_cons, List.foldl_nil]
    by_cases hd : keyDown keys n = true
    · refine .inr ⟨BitVec.ofNat 8 n, by simp [hd], ?_⟩
      have hb : (BitVec.ofNat 8 n).toNat = n := by simp; omega
      rw [hb]
      exact ⟨Nat.lt_succ_self n, hd, fun k hk hk' => absurd hk' (by omega)⟩
    · have hf : keyDown keys n = false := by simpa using hd
      rcases ih (by omega) with ⟨h, hall⟩ | ⟨b, h, hb, hdown, hall⟩
      · refine .inl ⟨by simpa [hf] using h, fun k hk => ?_⟩
        rcases Nat.lt_succ_iff_lt_or_eq.1 hk with hk | rfl
        exacts [hall k hk, hf]
      · refine .inr ⟨b, by simpa [hf] using h, by omega, hdown, fun k hk hbk => ?_⟩
        rcases Nat.lt_succ_iff_lt_or_eq.1 hk with hk | rfl
        exacts [hall k hk hbk, hf]

/-- Everything the scan of all keys can answer: the greatest key down, or none with all keys up. -/
theorem scanKeys_cases (keys : Word) :
    (scanKeys keys = none ∧ keys = 0) ∨
    ∃ b, scanKeys keys = some b ∧ b.toNat < 16 ∧ keyDown keys b.toNat = true ∧
      ∀ k < 16, b.toNat < k → keyDown keys k = false := by
  rcases scan_spec keys 16 (le_refl 16) with ⟨h, hall⟩ | h
  · refine .inl ⟨h, BitVec.eq_of_getLsbD_eq fun k hk => ?_⟩
    simpa [keyDown] using hall k hk
  · exact .inr h

end Sys2Proof.Machine
end

