-- ==== Sys2Proof/Laws/Display.lean ====
section
/-!
SUPPORT. The framebuffer: one cell flipped, a list of cells flipped, and which cells a sprite's set
pixels are.
-/

namespace Sys2Proof.Machine

theorem Framebuffer.pixel_blank (p : Pixel) : Framebuffer.blank.pixel p = false := by
  simp [Framebuffer.pixel, Framebuffer.blank]

/-- A flip changes one cell. -/
theorem Framebuffer.pixel_flip (fb : Framebuffer) (p q : Pixel) :
    (fb.flip p).pixel q = if q = p then !fb.pixel q else fb.pixel q := by
  obtain ⟨py, px⟩ := p
  obtain ⟨qy, qx⟩ := q
  simp only [Framebuffer.pixel, Framebuffer.flip, Fin.getElem_fin, Prod.mk.injEq,
    Vector.getElem_set]
  by_cases hy : qy = py
  · subst hy
    by_cases hx : qx = px
    · subst hx; simp
    · have : px.val ≠ qx.val := fun e => hx (Fin.ext e.symm)
      simp [hx, this]
  · have : py.val ≠ qy.val := fun e => hy (Fin.ext e.symm)
    simp [hy, this]

/-- Two framebuffers that agree on every cell are equal. -/
theorem Framebuffer.ext_pixel {f g : Framebuffer} (h : ∀ p, f.pixel p = g.pixel p) : f = g :=
  Vector.ext fun y hy => Vector.ext fun x hx => h (⟨y, hy⟩, ⟨x, hx⟩)

/-- Flipping a list of distinct cells flips exactly those, and the collision flag says whether one of
them was on. -/
theorem blit_spec (fb : Framebuffer) (ps : List Pixel) (hit : Bool) (h : ps.Nodup) :
    (∀ q, (blit fb ps hit).1.pixel q = (fb.pixel q ^^ decide (q ∈ ps))) ∧
    (blit fb ps hit).2 = (hit || ps.any fun p => fb.pixel p) := by
  induction ps generalizing fb hit with
  | nil => simp [blit]
  | cons p ps ih =>
    obtain ⟨hp, hps⟩ := List.nodup_cons.1 h
    obtain ⟨h1, h2⟩ := ih (fb.flip p) (hit || fb.pixel p) hps
    constructor
    · intro q
      rw [blit, h1, Framebuffer.pixel_flip]
      by_cases hq : q = p
      · subst hq; simp [hp]
      · simp [hq]
    · rw [blit, h2, Bool.or_assoc, List.any_cons]
      congr 2
      refine Bool.eq_iff_iff.2 ?_
      simp only [List.any_eq_true, Framebuffer.pixel_flip]
      refine exists_congr fun q => and_congr_right fun hq => ?_
      have hne : q ≠ p := fun e => hp (e ▸ hq)
      rw [if_neg hne]

/-- Which cells are the set pixels of a sprite. -/
theorem mem_spritePixels {m : Memory} {base : Nat} {top left : Byte} {n : Nat} {p : Pixel} :
    p ∈ spritePixels m base top left n ↔ ∃ r c : Nat, r < n ∧ c < 8 ∧
      (Memory.read m (base + r)).getLsbD (7 - c) = true ∧
      p.1.val = (top.toNat + r) % 32 ∧ p.2.val = (left.toNat + c) % 64 := by
  simp only [spritePixels, rowPixels, List.mem_flatMap, List.mem_range, List.mem_filterMap,
    Option.ite_none_right_eq_some, Option.some.injEq, wrapPixel]
  constructor
  · rintro ⟨r, hr, c, hc, hb, rfl⟩
    exact ⟨r, c, hr, hc, hb, rfl, rfl⟩
  · rintro ⟨r, c, hr, hc, hb, h1, h2⟩
    exact ⟨r, hr, c, hc, hb, Prod.ext (Fin.ext h1.symm) (Fin.ext h2.symm)⟩

/-- No two pixels of a sprite fall on one cell, even wrapped: it is at most 15 rows tall and 8
columns wide (R141). -/
theorem nodup_spritePixels (m : Memory) (base : Nat) (top left : Byte) (n : Nibble) :
    (spritePixels m base top left n.toNat).Nodup := by
  have hn := nibble_lt n
  refine List.nodup_flatMap.2 ⟨fun r _ => ?_, ?_⟩
  · refine List.pairwise_filterMap.2 (List.pairwise_lt_range.imp_of_mem ?_)
    intro c c' hc hc' hlt p hp q hq he
    rw [List.mem_range] at hc hc'
    simp only [Option.ite_none_right_eq_some, Option.some.injEq, wrapPixel] at hp hq
    have := congrArg (·.2.val) (hp.2.trans (he.trans hq.2.symm))
    simp only at this
    omega
  · refine List.pairwise_lt_range.imp_of_mem ?_
    intro r r' hr hr' hlt p hp hp'
    rw [List.mem_range] at hr hr'
    simp only [rowPixels, List.mem_filterMap, Option.ite_none_right_eq_some, Option.some.injEq,
      wrapPixel] at hp hp'
    obtain ⟨c, -, -, hc⟩ := hp
    obtain ⟨c', -, -, hc'⟩ := hp'
    have := congrArg (·.1.val) (hc.trans hc'.symm)
    simp only at this
    omega

end Sys2Proof.Machine
end

