-- ==== Sys2Proof/Laws/Memory.lean ====
section
/-!
SUPPORT. Memory: a read after a write, and every operation keeps the canonical form.
-/

namespace Sys2Proof.Machine

/-! ### The canonical form -/

theorem Memory.wfFrom_cons {lo k : Nat} {b : Byte} {m : Memory} :
    Memory.wfFrom lo ((k, b) :: m) = true ↔
      lo ≤ k ∧ k < Config.memSize ∧ b ≠ Config.resetByte k ∧ Memory.wfFrom (k + 1) m = true := by
  simp [Memory.wfFrom, and_assoc]

theorem Memory.wfFrom_mono {lo lo' : Nat} {m : Memory} (h : Memory.wfFrom lo m = true)
    (hle : lo' ≤ lo) : Memory.wfFrom lo' m = true := by
  cases m with
  | nil => rfl
  | cons c m =>
    rw [Memory.wfFrom_cons] at h ⊢
    exact ⟨hle.trans h.1, h.2⟩

theorem Memory.wfFrom_cell {lo a : Nat} {b : Byte} {m : Memory} (hlo : lo ≤ a)
    (ha : a < Config.memSize) (h : Memory.wfFrom (a + 1) m = true) :
    Memory.wfFrom lo (Memory.cell a b m) = true := by
  unfold Memory.cell
  split
  · exact Memory.wfFrom_mono h (by omega)
  · exact Memory.wfFrom_cons.2 ⟨hlo, ha, ‹_›, h⟩

theorem Memory.wfFrom_write {lo a : Nat} {b : Byte} {m : Memory} (hlo : lo ≤ a)
    (ha : a < Config.memSize) (h : Memory.wfFrom lo m = true) :
    Memory.wfFrom lo (Memory.write m a b) = true := by
  induction m generalizing lo with
  | nil => exact Memory.wfFrom_cell hlo ha rfl
  | cons c m ih =>
    obtain ⟨k, d⟩ := c
    obtain ⟨hk, hks, hd, hm⟩ := Memory.wfFrom_cons.1 h
    unfold Memory.write
    split
    · exact Memory.wfFrom_cell hlo ha (Memory.wfFrom_cons.2 ⟨by omega, hks, hd, hm⟩)
    · split
      · exact Memory.wfFrom_cell hlo ha (‹a = k› ▸ hm)
      · exact Memory.wfFrom_cons.2 ⟨hk, hks, hd, ih (by omega) hm⟩

/-- A write inside the address space keeps the canonical form. -/
theorem Memory.wf_write {m : Memory} {a : Nat} (b : Byte) (h : m.wf = true)
    (ha : a < Config.memSize) : (Memory.write m a b).wf = true :=
  Memory.wfFrom_write (Nat.zero_le a) ha h

/-- Stores inside the address space keep the canonical form. -/
theorem Memory.wf_writeBytes {m : Memory} {base : Nat} {bs : List Byte} (h : m.wf = true)
    (hb : bs = [] ∨ base + bs.length ≤ Config.memSize) :
    (Memory.writeBytes m base bs).wf = true := by
  induction bs generalizing m base with
  | nil => exact h
  | cons b bs ih =>
    simp only [List.length_cons, reduceCtorEq, false_or] at hb
    exact ih (Memory.wf_write b h (by omega)) (.inr (by omega))

/-! ### Read after write -/

theorem Memory.lookup_of_wfFrom {lo a : Nat} {m : Memory} (h : Memory.wfFrom lo m = true)
    (ha : a < lo) : Memory.lookup m a = none := by
  induction m generalizing lo with
  | nil => rfl
  | cons c m ih =>
    obtain ⟨k, d⟩ := c
    obtain ⟨hk, -, -, hm⟩ := Memory.wfFrom_cons.1 h
    rw [Memory.lookup, if_neg (by omega), ih hm (by omega)]

/-- A read after a write to the same address gives the byte written; another address reads as
before. The memory must be in canonical form, or a later entry could show through. -/
theorem Memory.read_write_from {lo a b : Nat} {x : Byte} {m : Memory}
    (h : Memory.wfFrom lo m = true) :
    Memory.read (Memory.write m a x) b = if b = a then x else Memory.read m b := by
  have read_cell : ∀ (m' : Memory), Memory.lookup m' a = none →
      Memory.read (Memory.cell a x m') b = if b = a then x else Memory.read m' b := by
    intro m' hn
    by_cases hba : b = a
    · subst hba
      by_cases hx : x = Config.resetByte b
      · simp [Memory.read, Memory.cell, hn, hx]
      · simp [Memory.read, Memory.cell, hx, Memory.lookup]
    · by_cases hx : x = Config.resetByte a
      · simp [Memory.cell, hx, hba]
      · simp [Memory.read, Memory.cell, hx, Memory.lookup, hba, Ne.symm hba]
  induction m generalizing lo with
  | nil => exact read_cell [] rfl
  | cons c m ih =>
    obtain ⟨k, d⟩ := c
    obtain ⟨hk, hks, hd, hm⟩ := Memory.wfFrom_cons.1 h
    unfold Memory.write
    split
    · refine read_cell _ (Memory.lookup_of_wfFrom (lo := k) (m := (k, d) :: m) ?_ ‹a < k›)
      exact Memory.wfFrom_cons.2 ⟨le_refl k, hks, hd, hm⟩
    · split
      · subst ‹a = k›
        rw [read_cell m (Memory.lookup_of_wfFrom hm (Nat.lt_succ_self a))]
        by_cases hba : b = a
        · simp [hba]
        · simp [hba, Memory.read, Memory.lookup, Ne.symm hba]
      · have := ih hm
        simp only [Memory.read, Memory.lookup] at this ⊢
        by_cases hkb : k = b
        · subst hkb; simp [Ne.symm ‹¬a = k›]
        · simpa [hkb] using this

theorem Memory.read_write {m : Memory} (h : m.wf = true) (a b : Nat) (x : Byte) :
    Memory.read (Memory.write m a x) b = if b = a then x else Memory.read m b :=
  Memory.read_write_from h

/-- Every byte after a run of stores inside the address space. -/
theorem Memory.read_writeBytes {m : Memory} {base : Nat} {bs : List Byte} (h : m.wf = true)
    (hb : bs = [] ∨ base + bs.length ≤ Config.memSize) (a : Nat) :
    Memory.read (Memory.writeBytes m base bs) a =
      if base ≤ a then bs.getD (a - base) (Memory.read m a) else Memory.read m a := by
  induction bs generalizing m base with
  | nil => simp [Memory.writeBytes]
  | cons b bs ih =>
    simp only [List.length_cons, reduceCtorEq, false_or] at hb
    rw [Memory.writeBytes, ih (Memory.wf_write b h (by omega)) (.inr (by omega)),
      Memory.read_write h]
    by_cases h1 : base + 1 ≤ a
    · obtain ⟨j, rfl⟩ := Nat.exists_eq_add_of_le h1
      rw [if_pos h1, if_neg (by omega), if_pos (by omega), show base + 1 + j - (base + 1) = j by omega,
        show base + 1 + j - base = j + 1 by omega, List.getD_cons_succ]
    · by_cases h2 : a = base
      · subst h2; simp
      · rw [if_neg h1, if_neg h2, if_neg (by omega)]

/-! ### Runs of reads -/

@[simp] theorem Memory.length_readBytes (m : Memory) (base n : Nat) :
    (Memory.readBytes m base n).length = n := by simp [Memory.readBytes]

theorem Memory.getD_readBytes (m : Memory) (base n k : Nat) (d : Byte) (h : k < n) :
    (Memory.readBytes m base n).getD k d = Memory.read m (base + k) := by
  simp [Memory.readBytes, List.getD, h]

end Sys2Proof.Machine
end

