-- ==== Sys2Proof/Laws/PerInstr.lean ====
section
/-!
SUPPORT. The family `EncodeRow`: the word of a well-formed instruction lies in that instruction's own
row of the opcode map (`30_encoding.md` R75 and R76), and the word of `nop` in none.
-/

namespace Sys2Proof.Laws.EncodeRow

/-- The mask and match of an instruction's row in R76; the default row has none. -/
def row : Instr → Option (Word × Word)
  | .cls => some (0xFFFF, 0x00E0)
  | .ret => some (0xFFFF, 0x00EE)
  | .jp _ => some (0xF000, 0x1000)
  | .call _ => some (0xF000, 0x2000)
  | .seImm _ _ => some (0xF000, 0x3000)
  | .sneImm _ _ => some (0xF000, 0x4000)
  | .seReg _ _ => some (0xF00F, 0x5000)
  | .ldImm _ _ => some (0xF000, 0x6000)
  | .addImm _ _ => some (0xF000, 0x7000)
  | .ldReg _ _ => some (0xF00F, 0x8000)
  | .orReg _ _ => some (0xF00F, 0x8001)
  | .andReg _ _ => some (0xF00F, 0x8002)
  | .xorReg _ _ => some (0xF00F, 0x8003)
  | .addReg _ _ => some (0xF00F, 0x8004)
  | .subReg _ _ => some (0xF00F, 0x8005)
  | .shr _ _ => some (0xF00F, 0x8006)
  | .subnReg _ _ => some (0xF00F, 0x8007)
  | .shl _ _ => some (0xF00F, 0x800E)
  | .sneReg _ _ => some (0xF00F, 0x9000)
  | .ldI _ => some (0xF000, 0xA000)
  | .jpV0 _ => some (0xF000, 0xB000)
  | .rnd _ _ => some (0xF000, 0xC000)
  | .drw _ _ _ => some (0xF000, 0xD000)
  | .skp _ => some (0xF0FF, 0xE09E)
  | .sknp _ => some (0xF0FF, 0xE0A1)
  | .ldVxDT _ => some (0xF0FF, 0xF007)
  | .ldVxK _ => some (0xF0FF, 0xF00A)
  | .ldDTVx _ => some (0xF0FF, 0xF015)
  | .ldSTVx _ => some (0xF0FF, 0xF018)
  | .addIVx _ => some (0xF0FF, 0xF01E)
  | .ldFVx _ => some (0xF0FF, 0xF029)
  | .ldBVx _ => some (0xF0FF, 0xF033)
  | .ldMemVx _ => some (0xF0FF, 0xF055)
  | .ldVxMem _ => some (0xF0FF, 0xF065)
  | .nop _ => none

/-- The word of a well-formed instruction matches its own row, and the word of `nop` no row. -/
def Statement (i : Instr) : Prop :=
  i.wellFormed = true →
    match row i with
    | some (mask, value) => encode i &&& mask = value
    | none => ∀ r ∈ opcodeRows, encode i &&& r.mask ≠ r.value

/-! ### Words under the masks of the formats -/

theorem and_ones (f : Nibble) : f &&& 0xF#4 = f := BitVec.and_allOnes

theorem mask_nnn (f : Nibble) (nnn : Addr12) : formatNNN f nnn &&& 0xF000 = formatNNN f 0 := by
  have h := formatNNN_and f 0xF#4 nnn 0#12
  rw [BitVec.and_zero, and_ones] at h
  exact h

theorem mask_xkk (f x : Nibble) (kk : Byte) : formatXKK f x kk &&& 0xF000 = formatXKK f 0 0 := by
  have h := formatXKK_and f 0xF#4 x 0#4 kk 0#8
  rw [BitVec.and_zero, BitVec.and_zero, and_ones] at h
  exact h

theorem mask_x (f x : Nibble) (kk : Byte) : formatXKK f x kk &&& 0xF0FF = formatXKK f 0 kk := by
  have h := formatXKK_and f 0xF#4 x 0#4 kk 0xFF#8
  rw [BitVec.and_zero, show kk &&& 0xFF#8 = kk from BitVec.and_allOnes, and_ones] at h
  exact h

theorem mask_xyn (f x y n : Nibble) : formatXYN f x y n &&& 0xF000 = formatXYN f 0 0 0 := by
  have h := formatXYN_and f 0xF#4 x 0#4 y 0#4 n 0#4
  rw [BitVec.and_zero, BitVec.and_zero, BitVec.and_zero, and_ones] at h
  exact h

theorem mask_xy (f x y n : Nibble) : formatXYN f x y n &&& 0xF00F = formatXYN f 0 0 n := by
  have h := formatXYN_and f 0xF#4 x 0#4 y 0#4 n 0xF#4
  rw [BitVec.and_zero, BitVec.and_zero, and_ones, and_ones] at h
  exact h

/-! ### One lemma per instruction -/

theorem cls : Statement .cls := fun _ => show (0x00E0 : Word) &&& 0xFFFF = 0x00E0 by decide

theorem ret : Statement .ret := fun _ => show (0x00EE : Word) &&& 0xFFFF = 0x00EE by decide

theorem jp (nnn : Addr12) : Statement (.jp nnn) := fun _ => mask_nnn _ nnn

theorem call (nnn : Addr12) : Statement (.call nnn) := fun _ => mask_nnn _ nnn

theorem seImm (x : Nibble) (kk : Byte) : Statement (.seImm x kk) := fun _ => mask_xkk _ x kk

theorem sneImm (x : Nibble) (kk : Byte) : Statement (.sneImm x kk) := fun _ => mask_xkk _ x kk

theorem seReg (x y : Nibble) : Statement (.seReg x y) := fun _ => mask_xy _ x y _

theorem ldImm (x : Nibble) (kk : Byte) : Statement (.ldImm x kk) := fun _ => mask_xkk _ x kk

theorem addImm (x : Nibble) (kk : Byte) : Statement (.addImm x kk) := fun _ => mask_xkk _ x kk

theorem ldReg (x y : Nibble) : Statement (.ldReg x y) := fun _ => mask_xy _ x y _

theorem orReg (x y : Nibble) : Statement (.orReg x y) := fun _ => mask_xy _ x y _

theorem andReg (x y : Nibble) : Statement (.andReg x y) := fun _ => mask_xy _ x y _

theorem xorReg (x y : Nibble) : Statement (.xorReg x y) := fun _ => mask_xy _ x y _

theorem addReg (x y : Nibble) : Statement (.addReg x y) := fun _ => mask_xy _ x y _

theorem subReg (x y : Nibble) : Statement (.subReg x y) := fun _ => mask_xy _ x y _

theorem shr (x y : Nibble) : Statement (.shr x y) := fun _ => mask_xy _ x y _

theorem subnReg (x y : Nibble) : Statement (.subnReg x y) := fun _ => mask_xy _ x y _

theorem shl (x y : Nibble) : Statement (.shl x y) := fun _ => mask_xy _ x y _

theorem sneReg (x y : Nibble) : Statement (.sneReg x y) := fun _ => mask_xy _ x y _

theorem ldI (nnn : Addr12) : Statement (.ldI nnn) := fun _ => mask_nnn _ nnn

theorem jpV0 (nnn : Addr12) : Statement (.jpV0 nnn) := fun _ => mask_nnn _ nnn

theorem rnd (x : Nibble) (kk : Byte) : Statement (.rnd x kk) := fun _ => mask_xkk _ x kk

theorem drw (x y n : Nibble) : Statement (.drw x y n) := fun _ => mask_xyn _ x y n

theorem skp (x : Nibble) : Statement (.skp x) := fun _ => mask_x _ x _

theorem sknp (x : Nibble) : Statement (.sknp x) := fun _ => mask_x _ x _

theorem ldVxDT (x : Nibble) : Statement (.ldVxDT x) := fun _ => mask_x _ x _

theorem ldVxK (x : Nibble) : Statement (.ldVxK x) := fun _ => mask_x _ x _

theorem ldDTVx (x : Nibble) : Statement (.ldDTVx x) := fun _ => mask_x _ x _

theorem ldSTVx (x : Nibble) : Statement (.ldSTVx x) := fun _ => mask_x _ x _

theorem addIVx (x : Nibble) : Statement (.addIVx x) := fun _ => mask_x _ x _

theorem ldFVx (x : Nibble) : Statement (.ldFVx x) := fun _ => mask_x _ x _

theorem ldBVx (x : Nibble) : Statement (.ldBVx x) := fun _ => mask_x _ x _

theorem ldMemVx (x : Nibble) : Statement (.ldMemVx x) := fun _ => mask_x _ x _

theorem ldVxMem (x : Nibble) : Statement (.ldVxMem x) := fun _ => mask_x _ x _

theorem nop (op : Word) : Statement (.nop op) := fun h r hr he => by
  have : recognised op = true := List.any_eq_true.2 ⟨r, hr, beq_iff_eq.2 he⟩
  simp [Instr.wellFormed, this] at h

end Sys2Proof.Laws.EncodeRow
end

