-- ==== Sys2Proof/Laws/Step.lean ====
section
/-!
SUPPORT. Everything one step can do, and the parts of a step.
-/

namespace Sys2Proof.Machine

/-- The opcode of R70 is what the fetch reads. -/
theorem State.opcodeAt_eq (s : State) (a : Nat) : s.opcodeAt a = Memory.word s.mem a := by
  apply BitVec.eq_of_toNat_eq
  rw [Memory.word, wordOfBytes_toNat, State.opcodeAt, BitVec.toNat_ofNat]
  exact Nat.mod_eq_of_lt (by omega)

theorem State.nextInput_eq (s : State) : s.nextInput = s.inputTaken := by
  simp [State.nextInput, State.inputTaken]

theorem endStep_eq (r : Result) : endStep r = mapNext State.inputTaken r := by
  cases r <;> simp [endStep, mapNext, State.nextInput_eq]

/-- A halted machine stays as it is; a running one whose `pc` is out of bounds faults; any other runs
the instruction at its `pc`. -/
theorem step_cases (s : State) :
    (s.fault ≠ .none ∧ step s = .next s) ∨
    (s.fault = .none ∧ Config.maxFetch < s.pc.toNat ∧
      step s = .next ((s.enter.raise .pcOutOfBounds s.pc).nextInput)) ∨
    (s.fault = .none ∧ s.pc.toNat ≤ Config.maxFetch ∧
      step s = endStep (exec (decode (Memory.word s.mem s.pc.toNat)) s.enter)) := by
  by_cases hf : s.fault = .none
  · by_cases hp : s.pc.toNat ≤ Config.maxFetch
    · exact .inr (.inr ⟨hf, hp, by simp [step, runStep, hf, State.fetch, hp]⟩)
    · exact .inr (.inl ⟨hf, by omega, by
        simp [step, runStep, hf, State.fetch, hp, raiseFault, endStep]⟩)
  · exact .inl ⟨hf, by simp [step, runStep, hf]⟩

end Sys2Proof.Machine
end

