-- ==== Sys2Proof/Tests/Slice0.lean ====
section
/-!
SUPPORT. Tests. Expected values are those of `95_test_vectors.md` (the vector is named in each
comment), worked out there by hand from the rules, and the witnesses of the statements' hypotheses.
-/

namespace Sys2Proof.Tests

open Sys2Proof.Machine

/-! ### WellFormed: each check refuses an ill-formed term -/

/-- 00E0 is a recognised word, so it is no `nop` (R77). -/
theorem test_wf_refuses_nop_cls : (Instr.nop 0x00E0).wellFormed = false := by decide
/-- 8124 matches the row 8XY4. -/
theorem test_wf_refuses_nop_add : (Instr.nop 0x8124).wellFormed = false := by decide
/-- F165 matches the row FX65, the last of the table. -/
theorem test_wf_refuses_nop_load : (Instr.nop 0xF165).wellFormed = false := by decide
/-- T-ENC-33: 01E0 matches no row. -/
theorem test_wf_accepts_nop : (Instr.nop 0x01E0).wellFormed = true := by decide

/-! ### Decoding and encoding: one word per constructor (T-ENC-1 to T-ENC-36, T-ALU) -/

theorem test_word_cls : decode 0x00E0 = .cls ∧ encode .cls = 0x00E0 := by decide
theorem test_word_ret : decode 0x00EE = .ret ∧ encode .ret = 0x00EE := by decide
theorem test_word_jp : decode 0x1ABC = .jp 0xABC ∧ encode (.jp 0xABC) = 0x1ABC := by decide
theorem test_word_call : decode 0x2F00 = .call 0xF00 ∧ encode (.call 0xF00) = 0x2F00 := by decide
theorem test_word_seImm :
    decode 0x3C42 = .seImm 0xC 0x42 ∧ encode (.seImm 0xC 0x42) = 0x3C42 := by decide
theorem test_word_sneImm :
    decode 0x4C42 = .sneImm 0xC 0x42 ∧ encode (.sneImm 0xC 0x42) = 0x4C42 := by decide
theorem test_word_seReg :
    decode 0x5AB0 = .seReg 0xA 0xB ∧ encode (.seReg 0xA 0xB) = 0x5AB0 := by decide
theorem test_word_ldImm :
    decode 0x6F07 = .ldImm 0xF 0x07 ∧ encode (.ldImm 0xF 0x07) = 0x6F07 := by decide
theorem test_word_addImm :
    decode 0x7001 = .addImm 0 0x01 ∧ encode (.addImm 0 0x01) = 0x7001 := by decide
theorem test_word_ldReg : decode 0x8120 = .ldReg 1 2 ∧ encode (.ldReg 1 2) = 0x8120 := by decide
theorem test_word_orReg : decode 0x8121 = .orReg 1 2 ∧ encode (.orReg 1 2) = 0x8121 := by decide
theorem test_word_andReg : decode 0x8122 = .andReg 1 2 ∧ encode (.andReg 1 2) = 0x8122 := by decide
theorem test_word_xorReg : decode 0x8123 = .xorReg 1 2 ∧ encode (.xorReg 1 2) = 0x8123 := by decide
theorem test_word_addReg : decode 0x8124 = .addReg 1 2 ∧ encode (.addReg 1 2) = 0x8124 := by decide
theorem test_word_subReg : decode 0x8125 = .subReg 1 2 ∧ encode (.subReg 1 2) = 0x8125 := by decide
theorem test_word_shr : decode 0x8126 = .shr 1 2 ∧ encode (.shr 1 2) = 0x8126 := by decide
theorem test_word_subnReg :
    decode 0x8127 = .subnReg 1 2 ∧ encode (.subnReg 1 2) = 0x8127 := by decide
theorem test_word_shl : decode 0x812E = .shl 1 2 ∧ encode (.shl 1 2) = 0x812E := by decide
theorem test_word_sneReg :
    decode 0x9AB0 = .sneReg 0xA 0xB ∧ encode (.sneReg 0xA 0xB) = 0x9AB0 := by decide
theorem test_word_ldI : decode 0xA210 = .ldI 0x210 ∧ encode (.ldI 0x210) = 0xA210 := by decide
theorem test_word_jpV0 : decode 0xB300 = .jpV0 0x300 ∧ encode (.jpV0 0x300) = 0xB300 := by decide
theorem test_word_rnd : decode 0xC10F = .rnd 1 0x0F ∧ encode (.rnd 1 0x0F) = 0xC10F := by decide
theorem test_word_drw : decode 0xD12A = .drw 1 2 0xA ∧ encode (.drw 1 2 0xA) = 0xD12A := by decide
theorem test_word_skp : decode 0xE19E = .skp 1 ∧ encode (.skp 1) = 0xE19E := by decide
theorem test_word_sknp : decode 0xE1A1 = .sknp 1 ∧ encode (.sknp 1) = 0xE1A1 := by decide
theorem test_word_ldVxDT : decode 0xF307 = .ldVxDT 3 ∧ encode (.ldVxDT 3) = 0xF307 := by decide
theorem test_word_ldVxK : decode 0xF10A = .ldVxK 1 ∧ encode (.ldVxK 1) = 0xF10A := by decide
theorem test_word_ldDTVx : decode 0xF215 = .ldDTVx 2 ∧ encode (.ldDTVx 2) = 0xF215 := by decide
theorem test_word_ldSTVx : decode 0xF418 = .ldSTVx 4 ∧ encode (.ldSTVx 4) = 0xF418 := by decide
theorem test_word_addIVx : decode 0xF21E = .addIVx 2 ∧ encode (.addIVx 2) = 0xF21E := by decide
theorem test_word_ldFVx : decode 0xF029 = .ldFVx 0 ∧ encode (.ldFVx 0) = 0xF029 := by decide
theorem test_word_ldBVx : decode 0xF033 = .ldBVx 0 ∧ encode (.ldBVx 0) = 0xF033 := by decide
theorem test_word_ldMemVx : decode 0xF255 = .ldMemVx 2 ∧ encode (.ldMemVx 2) = 0xF255 := by decide
theorem test_word_ldVxMem : decode 0xF365 = .ldVxMem 3 ∧ encode (.ldVxMem 3) = 0xF365 := by decide
/-- T-ENC-8, 13, 21, 31, 32, 33, 34. -/
theorem test_word_nop : decode 0x5AB1 = .nop 0x5AB1 ∧ decode 0x8128 = .nop 0x8128 ∧
    decode 0xE1A2 = .nop 0xE1A2 ∧ decode 0xF0FF = .nop 0xF0FF ∧ decode 0x0000 = .nop 0x0000 ∧
    decode 0x01E0 = .nop 0x01E0 ∧ decode 0xFFFF = .nop 0xFFFF := by decide
/-- T-ENC-35: 12 34 is `JP 0x234`, not 3412. -/
theorem test_byte_order : decodeBytes [0x12, 0x34] = .ok (.jp 0x234, []) := by decide
/-- The model's own reader of bytes (log entry 26). -/
theorem test_truncated : decodeBytes [0x12] = .error .truncated := by decide
/-- The table's 16 bits of `DRW_Vx__Vy__n` with x = 1, y = 2, n = 10 (T-ENC-18). -/
theorem test_table_word : decodeTableWord 16 0xD12A = some (.drw 1 2 0xA) := by decide

/-! ### One step on a small state -/

/-- The reset state with one input fixed: no key down, random byte 0. -/
def start : State := { State.reset with inputs := [⟨0, 0⟩] }


/-- The next state of a step passes a check. -/
def after (s : State) (op : Word) (check : State → Bool) : Bool :=
  match step (s.withFetchWord 16 op.toNat) with
  | .next t => check t
  | .fault _ => false
  | .refused _ => false

/-- `start` with other inputs. -/
def withInput (keys : Word) (rnd : Byte) : State := { start with inputs := [⟨keys, rnd⟩] }

/-- A blank framebuffer with some cells, given as (column, row), on. -/
def cells (l : List (Fin 64 × Fin 32)) : Framebuffer :=
  l.foldl (fun f c => f.flip (c.2, c.1)) Framebuffer.blank

/-- `start` with bytes stored from an address on. -/
def withBytes (s : State) (a : Nat) (bs : List Byte) : State := s.setMem (Memory.writeBytes s.mem a bs)

/-- T-DSP-1. -/
theorem test_cls : after { start with fb := cells [(0, 0), (63, 31), (10, 5)] } 0x00E0 (fun t =>
    decide (t.fb = cells []) && t.draw) = true := by decide
/-- T-CF-4. -/
theorem test_ret : after (({ start with pc := 0x20C }).push 0x204) 0x00EE (fun t =>
    decide (t.pc = 0x206 ∧ t.sp = 0)) = true := by decide
/-- T-CF-7. -/
theorem test_ret_underflow : after start 0x00EE (fun t =>
    decide (t.fault = .stackUnderflow ∧ t.pc = 0x200)) = true := by decide
/-- T-CF-2: an odd target is legal. -/
theorem test_jp : after start 0x1201 (fun t => decide (t.pc = 0x201)) = true := by decide
/-- T-CF-21: a jump to itself completes and ticks. -/
theorem test_jp_ticks : after { start with dt := 1, st := 2 } 0x1200 (fun t =>
    decide (t.pc = 0x200 ∧ t.dt = 0 ∧ t.st = 1)) = true := by decide
/-- T-CF-5. -/
theorem test_call : after { start with sp := 14 } 0x2300 (fun t =>
    decide (t.pc = 0x300 ∧ t.sp = 15 ∧ t.stackEntry 15 = 0x200)) = true := by decide
/-- T-CF-6. -/
theorem test_call_overflow : after { start with sp := 15 } 0x2300 (fun t =>
    decide (t.fault = .stackOverflow ∧ t.faultInfo = 0x300 ∧ t.pc = 0x200)) = true := by decide
/-- T-CF-20: the pc may leave memory without a fault in this step. -/
theorem test_seImm : after { start with pc := 0xFFE } 0x3000 (fun t =>
    decide (t.pc = 0x1002 ∧ t.fault = .none)) = true := by decide
/-- T-CF-10. -/
theorem test_seImm_no : after (start.setReg 0 6) 0x3005 (fun t => decide (t.pc = 0x202)) = true := by
  decide
/-- T-CF-11. -/
theorem test_sneImm : after ({ start with pc := 0x300 }.setReg 3 0x10) 0x4311 (fun t =>
    decide (t.pc = 0x304)) = true := by decide
/-- T-CF-14. -/
theorem test_seReg : after ((start.setReg 1 0x7F).setReg 2 0x80) 0x5120 (fun t =>
    decide (t.pc = 0x202)) = true := by decide
/-- T-CF-16. -/
theorem test_sneReg : after ((start.setReg 1 1).setReg 2 2) 0x9120 (fun t =>
    decide (t.pc = 0x204)) = true := by decide
/-- T-CF-19: no reduction modulo 4096. -/
theorem test_jpV0 : after (start.setReg 0 0xFF) 0xBFFF (fun t => decide (t.pc = 0x10FE)) = true := by
  decide
/-- T-ALU-1. -/
theorem test_ldImm : after start 0x6A3C (fun t =>
    decide (t.reg 0xA = 0x3C ∧ t.pc = 0x202)) = true := by decide
/-- T-ALU-3, S7: it wraps and leaves the flag. -/
theorem test_addImm : after ((start.setReg 0 0xFF).setReg 15 1) 0x7001 (fun t =>
    decide (t.reg 0 = 0 ∧ t.reg 15 = 1)) = true := by decide
/-- T-ALU-6. -/
theorem test_ldReg : after ((start.setReg 2 0x9A).setReg 15 1) 0x8120 (fun t =>
    decide (t.reg 1 = 0x9A ∧ t.reg 15 = 1)) = true := by decide
/-- T-ALU-7. -/
theorem test_orReg : after (((start.setReg 1 0xF0).setReg 2 0x0C).setReg 15 1) 0x8121 (fun t =>
    decide (t.reg 1 = 0xFC ∧ t.reg 15 = 1)) = true := by decide
/-- T-ALU-8. -/
theorem test_andReg : after (((start.setReg 1 0xF0).setReg 2 0x3C).setReg 15 1) 0x8122 (fun t =>
    decide (t.reg 1 = 0x30 ∧ t.reg 15 = 1)) = true := by decide
/-- T-ALU-9. -/
theorem test_xorReg : after (((start.setReg 1 0xF0).setReg 2 0x3C).setReg 15 1) 0x8123 (fun t =>
    decide (t.reg 1 = 0xCC ∧ t.reg 15 = 1)) = true := by decide
/-- T-ALU-13. -/
theorem test_addReg : after ((start.setReg 1 0xFF).setReg 2 1) 0x8124 (fun t =>
    decide (t.reg 1 = 0 ∧ t.reg 15 = 1)) = true := by decide
/-- T-ALU-15: the result overwrites the flag. -/
theorem test_addReg_flag : after ((start.setReg 15 0xF0).setReg 1 0x20) 0x8F14 (fun t =>
    decide (t.reg 15 = 0x10)) = true := by decide
/-- T-ALU-20: equal operands, no borrow. -/
theorem test_subReg : after ((start.setReg 1 0x20).setReg 2 0x20) 0x8125 (fun t =>
    decide (t.reg 1 = 0 ∧ t.reg 15 = 1)) = true := by decide
/-- T-ALU-23: the source `VF` is read before the flag is written. -/
theorem test_subReg_flag : after ((start.setReg 1 5).setReg 15 9) 0x81F5 (fun t =>
    decide (t.reg 1 = 0xFC ∧ t.reg 15 = 0)) = true := by decide
/-- T-ALU-25: y is ignored. -/
theorem test_shr : after (((start.setReg 1 4).setReg 2 0xFF).setReg 15 1) 0x8126 (fun t =>
    decide (t.reg 1 = 2 ∧ t.reg 2 = 0xFF ∧ t.reg 15 = 0)) = true := by decide
/-- T-ALU-24. -/
theorem test_shr_out : after (start.setReg 1 5) 0x8106 (fun t =>
    decide (t.reg 1 = 2 ∧ t.reg 15 = 1)) = true := by decide
/-- T-ALU-29. -/
theorem test_subnReg : after (((start.setReg 1 0x20).setReg 2 0x10).setReg 15 1) 0x8127 (fun t =>
    decide (t.reg 1 = 0xF0 ∧ t.reg 15 = 0)) = true := by decide
/-- T-ALU-31. -/
theorem test_shl : after (start.setReg 1 0x81) 0x810E (fun t =>
    decide (t.reg 1 = 2 ∧ t.reg 15 = 1)) = true := by decide
/-- T-ALU-33. -/
theorem test_shl_flag : after (start.setReg 15 0xC1) 0x8F0E (fun t =>
    decide (t.reg 15 = 0x82)) = true := by decide
/-- T-IDX-2. -/
theorem test_ldI : after { start with i := 0x1234 } 0xAFFF (fun t => decide (t.i = 0xFFF)) = true := by
  decide
/-- T-IDX-5: wraps at 65536, no flag. -/
theorem test_addIVx : after ({ start with i := 0xFFFF }.setReg 2 1) 0xF21E (fun t =>
    decide (t.i = 0 ∧ t.reg 15 = 0)) = true := by decide
/-- T-IDX-10: the symbol is not masked. -/
theorem test_ldFVx : after (start.setReg 0 0xFF) 0xF029 (fun t => decide (t.i = 0x4FB)) = true := by
  decide
/-- T-RND-1. -/
theorem test_rnd : after ((withInput 0 0xA7).setReg 1 0xEE) 0xC10F (fun t =>
    decide (t.reg 1 = 7)) = true := by decide
/-- T-DSP-3: wrap in both directions, bit 7 leftmost. -/
theorem test_drw : after (((withBytes { start with i := 0x300 } 0x300 [0xC3, 0x81]).setReg 0 62).setReg 1 31)
    0xD012 (fun t => decide (t.fb = cells [(5, 0), (62, 0), (4, 31), (5, 31), (62, 31), (63, 31)] ∧
      t.reg 15 = 0) && t.draw) = true := by decide
/-- T-DSP-5: one of four pixels collides. -/
theorem test_drw_collision : after { withBytes start 0x300 [0xF0] with i := 0x300, fb := cells [(3, 0)] }
    0xD011 (fun t => decide (t.fb = cells [(0, 0), (1, 0), (2, 0)] ∧ t.reg 15 = 1)) = true := by decide
/-- T-KEY-1. -/
theorem test_skp : after ((withInput 0x0084 0).setReg 1 7) 0xE19E (fun t =>
    decide (t.pc = 0x204)) = true := by decide
/-- T-KEY-5. -/
theorem test_skp_range : after ((withInput 0xFFFF 0).setReg 1 0x10) 0xE19E (fun t =>
    decide (t.fault = .keyIndexOutOfRange ∧ t.faultInfo = 0x10 ∧ t.pc = 0x200)) = true := by decide
/-- T-KEY-3. -/
theorem test_sknp : after ((withInput 0x0004 0).setReg 1 7) 0xE1A1 (fun t =>
    decide (t.pc = 0x204)) = true := by decide
/-- T-KEY-6. -/
theorem test_sknp_range : after (start.setReg 1 0xFF) 0xE1A1 (fun t =>
    decide (t.fault = .keyIndexOutOfRange ∧ t.faultInfo = 0xFF)) = true := by decide
/-- T-TMR-1: the value before the tick. -/
theorem test_ldVxDT : after { start with dt := 2 } 0xF307 (fun t =>
    decide (t.reg 3 = 2 ∧ t.dt = 1)) = true := by decide
/-- T-KEY-9: the greatest key down. -/
theorem test_ldVxK : after { (withInput 0x0084 0).setReg 1 0x55 with dt := 9, st := 3 } 0xF10A (fun t =>
    decide (t.reg 1 = 7 ∧ t.pc = 0x202 ∧ t.dt = 8 ∧ t.st = 2)) = true := by decide
/-- T-KEY-8, T-KEY-12: blocked, but `DRAW` is cleared. -/
theorem test_ldVxK_blocked : after { start.setReg 1 0x55 with dt := 9, draw := true } 0xF10A (fun t =>
    decide (t.reg 1 = 0x55 ∧ t.pc = 0x200 ∧ t.dt = 9) && !t.draw) = true := by decide
/-- T-TMR-3. -/
theorem test_ldDTVx : after (start.setReg 2 3) 0xF215 (fun t => decide (t.dt = 2)) = true := by decide
/-- T-TMR-5. -/
theorem test_ldDTVx_zero : after { start with dt := 7 } 0xF215 (fun t => decide (t.dt = 0)) = true := by
  decide
/-- T-TMR-6. -/
theorem test_ldSTVx : after { start.setReg 4 0x10 with dt := 5 } 0xF418 (fun t =>
    decide (t.st = 15 ∧ t.dt = 4)) = true := by decide
/-- T-MEM-1. -/
theorem test_ldBVx : after { start.setReg 0 0xFE with i := 0x300 } 0xF033 (fun t =>
    decide (Memory.readBytes t.mem 0x300 3 = [2, 5, 4] ∧ t.i = 0x300)) = true := by decide
/-- T-MEM-5: checked before anything is written. -/
theorem test_ldBVx_end : after { start.setReg 0 0x7B with i := 0xFFE } 0xF033 (fun t =>
    decide (t.fault = .memOutOfBounds ∧ t.faultInfo = 0x1000 ∧ Memory.read t.mem 0xFFE = 0)) = true := by
  decide
/-- T-MEM-6: two registers, not three. -/
theorem test_ldMemVx : after
    { ((start.setReg 0 0x11).setReg 1 0x22).setReg 2 0x33 with i := 0x400 } 0xF255 (fun t =>
    decide (Memory.readBytes t.mem 0x400 3 = [0x11, 0x22, 0] ∧ t.i = 0x403)) = true := by decide
/-- T-MEM-8: no access, no fault, and `I` wraps. -/
theorem test_ldMemVx_none : after { start with i := 0xFFFF } 0xF055 (fun t =>
    decide (t.i = 0 ∧ t.fault = .none ∧ t.pc = 0x202)) = true := by decide
/-- T-MEM-13. -/
theorem test_ldVxMem : after
    { (withBytes start 0x300 [2, 5, 4, 9]).setReg 3 0x77 with i := 0x300 } 0xF365 (fun t =>
    decide (t.reg 0 = 2 ∧ t.reg 2 = 4 ∧ t.reg 3 = 0x77 ∧ t.i = 0x304)) = true := by decide
/-- T-MEM-17: the default glyph table. -/
theorem test_ldVxMem_glyph : after start 0xF265 (fun t =>
    decide (t.reg 0 = 0xF0 ∧ t.reg 1 = 0x90 ∧ t.i = 3)) = true := by decide
/-- T-NOP-2. -/
theorem test_nop : after { start with dt := 3 } 0x8AB9 (fun t =>
    decide (t.pc = 0x202 ∧ t.dt = 2)) = true := by decide
/-- R206: one byte too long. -/
theorem test_load_too_long : launch (List.replicate 3585 0) = none := by
  unfold launch State.loadImage
  exact if_neg (by rw [List.length_replicate]; decide)

/-! ### Witnesses: states and operands that meet the hypotheses of the statements -/

theorem witness_drw_bounds : ((0 : Nibble) = 0 ∨ (0xFFFF : Word).toNat + (0 : Nibble).toNat ≤ 4096) ∧
    (4081 : Word).toNat + (15 : Nibble).toNat ≤ 4096 := by decide
theorem witness_drw_twice : (0 : Nibble) ≠ 15 ∧ (1 : Nibble) ≠ 15 ∧
    ({ start with i := 4094 } : State).i.toNat + (2 : Nibble).toNat ≤ 4096 := by decide
theorem witness_other_than_display : Instr.jp 0 ≠ .cls ∧ ∀ x y n, Instr.jp 0 ≠ .drw x y n :=
  ⟨by decide, fun _ _ _ h => by cases h⟩
theorem witness_ret : State.reset.sp = 0 ∧ ({ start with sp := 1 } : State).sp ≠ 0 := by decide
theorem witness_call : ({ start with sp := 15 } : State).sp = 15 ∧
    ({ start with sp := 14 } : State).sp ≠ 15 := by decide
/-- The program of S6. -/
def callRet : State := withBytes (withBytes start 0x200 [0x22, 0x0A]) 0x20A [0x00, 0xEE]
theorem witness_call_ret : callRet.fault = .none ∧ callRet.sp ≠ 15 ∧ callRet.pc.toNat ≤ 4094 ∧
    (0x20A : Addr12).toNat ≤ 4094 ∧ decode (callRet.opcodeAt callRet.pc.toNat) = .call 0x20A ∧
    decode (callRet.opcodeAt (0x20A : Addr12).toNat) = .ret := by decide
theorem witness_rnd : (withInput 0 0xA7).inputs = ⟨0, 0xA7⟩ :: [] := by decide
theorem witness_key_skip : 15 < ((start.setReg 1 16).reg 1).toNat ∧
    ((start.setReg 1 15).reg 1).toNat ≤ 15 := by decide
theorem witness_key_wait : (withInput 0 0).keys = 0 ∧ (withInput 0x8000 0).keys ≠ 0 ∧
    (withInput 1 0).keys ≠ 0 := by decide
/-- Two quiet steps with different random bytes, then keys 2 and 7 go down (program P4). -/
def quiets : List Input := [⟨0, 0⟩, ⟨0, 0xA7⟩]
def waiting : State :=
  { withBytes start 0x200 [0xF1, 0x0A] with inputs := quiets ++ [⟨0x84, 0⟩] }
theorem witness_key_wait_ends : waiting.fault = .none ∧ waiting.pc.toNat ≤ 4094 ∧
    decode (waiting.opcodeAt waiting.pc.toNat) = .ldVxK 1 ∧ (∀ q ∈ quiets, q.keys = 0) ∧
    (0x84 : Word) ≠ 0 ∧ waiting.inputs = quiets ++ ⟨0x84, 0⟩ :: [] := by decide
/-- No quiet step at all: the first key is already down. -/
theorem witness_key_wait_ends_at_once : ∀ q ∈ ([] : List Input), q.keys = 0 := by decide
theorem witness_tick_fault : ∃ t, exec .ret start = .next t ∧ (faultCause .ret start).isSome = true :=
  ⟨_, rfl, by decide⟩
theorem witness_tick_blocked : ∃ t, exec (.ldVxK 0) start = .next t ∧
    (∃ x, Instr.ldVxK 0 = .ldVxK x) ∧ start.keys = 0 := ⟨_, rfl, ⟨0, rfl⟩, by decide⟩
theorem witness_tick_completed : ∃ t, exec .cls start = .next t ∧ faultCause .cls start = none ∧
    ¬((∃ x, Instr.cls = .ldVxK x) ∧ start.keys = 0) ∧ (∀ x, Instr.cls ≠ .ldDTVx x) ∧
    ∀ x, Instr.cls ≠ .ldSTVx x :=
  ⟨_, rfl, by decide, (by rintro ⟨⟨_, h⟩, _⟩; cases h), fun _ h => (by cases h),
    fun _ h => (by cases h)⟩
theorem witness_decimal : ({ start with i := 4093 } : State).mem.wf = true ∧
    ({ start with i := 4093 } : State).i.toNat ≤ 4093 := by decide
theorem witness_block : ({ start with i := 0xFFFF } : State).mem.wf = true ∧
    ((0 : Nibble) = 0 ∨ (0xFFFF : Word).toNat + (0 : Nibble).toNat ≤ 4096) ∧
    ({ start with i := 4081 } : State).i.toNat + (15 : Nibble).toNat ≤ 4096 := by decide
/-- `DRW` with n = 1 at 4096; `LD B` at 4094; a block of one at 4096 and of 15 at 4082. -/
theorem witness_out_of_bounds :
    (∃ x y n, Instr.drw 0 0 1 = .drw x y n ∧ 1 = n.toNat) ∧
    (∃ x, Instr.ldBVx 0 = .ldBVx x) ∧
    (∃ x, (Instr.ldMemVx 1 = .ldMemVx x ∨ Instr.ldMemVx 1 = .ldVxMem x) ∧ 1 = x.toNat) ∧
    (∃ x, (Instr.ldVxMem 15 = .ldMemVx x ∨ Instr.ldVxMem 15 = .ldVxMem x) ∧ 15 = x.toNat) ∧
    4096 < (4096 : Word).toNat + 1 ∧ 4096 < (4094 : Word).toNat + 3 ∧ 4096 < (4082 : Word).toNat + 15 :=
  ⟨⟨0, 0, 1, rfl, rfl⟩, ⟨0, rfl⟩, ⟨1, .inl rfl, rfl⟩, ⟨15, .inr rfl, rfl⟩, by decide⟩
theorem witness_memory_changed : ∃ t, exec (.ldBVx 0) { start.setReg 0 7 with i := 0x300 } = .next t ∧
    t.mem.read 0x302 ≠ ({ start.setReg 0 7 with i := 0x300 } : State).mem.read 0x302 :=
  ⟨_, rfl, by decide⟩
/-- `LD [I], V2` at 0x200 with `I` = 0x202 (after T-MEM-12). -/
def selfModifying : State := { withBytes (start.setReg 0 0x12) 0x200 [0xF2, 0x55] with i := 0x202 }
theorem witness_store_fetch : selfModifying.mem.wf = true ∧ selfModifying.fault = .none ∧
    selfModifying.pc.toNat + (2 : Nibble).toNat ≤ 4094 ∧ 2 ≤ (2 : Nibble).toNat ∧
    selfModifying.i = selfModifying.pc + 2 ∧
    decode (selfModifying.opcodeAt selfModifying.pc.toNat) = .ldMemVx 2 := by decide
theorem witness_stack_changed : ∃ t, exec (.call 0x300) start = .next t ∧ ¬SameStack start t :=
  ⟨_, rfl, fun h => absurd h.1 (by decide)⟩
theorem witness_index_changed : ∃ t, exec (.ldI 0x300) start = .next t ∧ t.i ≠ start.i :=
  ⟨_, rfl, by decide⟩
theorem witness_flag_changed : ∃ t, exec (.subReg 1 2) start = .next t ∧ t.reg 15 ≠ start.reg 15 :=
  ⟨_, rfl, by decide⟩
theorem witness_fault_causes : faultCause .ret start = some (.stackUnderflow, 0) ∧
    faultCause (.call 0x300) { start with sp := 15 } = some (.stackOverflow, 0x300) ∧
    faultCause (.drw 0 0 1) { start with i := 0x2000 } = some (.memOutOfBounds, 0x2000) ∧
    faultCause (.skp 1) (start.setReg 1 16) = some (.keyIndexOutOfRange, 16) ∧
    faultCause (.drw 0 0 0) { start with i := 0xFFFF } = none := by decide
theorem witness_fetch_out : ({ start with pc := 4095 } : State).fault = .none ∧
    4094 < ({ start with pc := 4095 } : State).pc.toNat := by decide
theorem witness_faulting_step : ∃ t, step (withBytes start 0x200 [0x00, 0xEE]) = .next t ∧
    (withBytes start 0x200 [0x00, 0xEE]).fault = .none ∧ t.fault ≠ .none :=
  ⟨_, rfl, by decide, by decide⟩
theorem witness_halted : (start.raise .stackUnderflow 0).fault ≠ .none := by decide
/-- The last address a fetch can start from. -/
theorem witness_step_runs : ({ start with pc := 4094 } : State).fault = .none ∧
    ({ start with pc := 4094 } : State).pc.toNat ≤ 4094 ∧
    decode (BitVec.ofNat 16 ((start.mem.read 4094).toNat * 256 + (start.mem.read 4095).toNat)) =
      .nop 0 := by decide
theorem witness_draw : callRet.fault = .none := by decide
theorem witness_blocked : waiting.fault = .none ∧ waiting.pc.toNat ≤ 4094 ∧
    decode (waiting.opcodeAt waiting.pc.toNat) = .ldVxK 1 ∧ waiting.keys = 0 := by decide
theorem witness_awaiting : waiting.awaitingInput = true ∧ callRet.awaitingInput = false := by decide
theorem witness_reads_no_input : (∀ x kk, Instr.cls ≠ .rnd x kk) ∧
    ∀ x, Instr.cls ≠ .skp x ∧ Instr.cls ≠ .sknp x ∧ Instr.cls ≠ .ldVxK x :=
  ⟨fun _ _ h => (by cases h), fun _ => ⟨fun h => (by cases h), fun h => (by cases h),
    fun h => (by cases h)⟩⟩
theorem witness_image_lengths : (List.replicate 3584 (0 : Byte)).length ≤ 3584 ∧
    3584 < (List.replicate 3585 (0 : Byte)).length := by
  rw [List.length_replicate, List.length_replicate]; decide
theorem witness_invariant : ∃ t, callRet.inv = true ∧ step callRet = .next t := ⟨_, by decide, rfl⟩
/-- A halted state that meets the invariant: 00EE at 0x200 has run with `SP` = 0. -/
theorem witness_invariant_halted :
    ((withBytes start 0x200 [0x00, 0xEE]).raise .stackUnderflow 0).inv = true := by decide
theorem witness_well_formed : (Instr.ldVxMem 15).wellFormed = true ∧ (Instr.nop 0).wellFormed = true := by
  decide

end Sys2Proof.Tests
end

namespace Sys2Proof.Machine

/-! ### The draw flag (`10_state.md` R29) and the registers at reset (R22) -/

/-- Settles O50: every entry of the register vector of reset is 0. -/
theorem resetClearsRegisters : Obligations.ResetClearsRegisters :=
  fun x => Vector.getElem_replicate (nibble_lt x)

/-- A bounds check keeps `DRAW` when what it guards does: the fault entry writes only `FAULT` and
`FAULT_INFO` (R183). -/
theorem withData_keeps_draw (count : Nat) (s : State) {body : Result}
    (hbody : ∃ t, body = .next t ∧ t.draw = s.draw) :
    ∃ t, withData count s body = .next t ∧ t.draw = s.draw := by
  rcases withData_cases s count body with ⟨-, h⟩ | ⟨-, h⟩
  · rwa [h]
  · exact ⟨_, h, State.raise_draw ..⟩

/-- A key check keeps `DRAW` when what it guards does. -/
theorem withKey_keeps_draw (symbol : Byte) (s : State) {body : Result}
    (hbody : ∃ t, body = .next t ∧ t.draw = s.draw) :
    ∃ t, withKey symbol s body = .next t ∧ t.draw = s.draw := by
  rcases withKey_cases s symbol body with ⟨-, h⟩ | ⟨-, h⟩
  · rwa [h]
  · exact ⟨_, h, State.raise_draw ..⟩

/-- No instruction but `CLS` and `DRW` writes `DRAW`. -/
theorem exec_keeps_draw (i : Instr) (s : State) (hcls : i ≠ .cls) (hdrw : ∀ x y n, i ≠ .drw x y n) :
    ∃ t, exec i s = .next t ∧ t.draw = s.draw := by
  cases i with
  | cls => exact absurd rfl hcls
  | drw x y n => exact absurd rfl (hdrw x y n)
  | skp x | sknp x => exact withKey_keeps_draw _ s ⟨_, rfl, rfl⟩
  | ldBVx x | ldMemVx x | ldVxMem x => exact withData_keeps_draw _ s ⟨_, rfl, by simp⟩
  | ret =>
    by_cases h : s.sp = 0
    · exact ⟨_, if_pos h, rfl⟩
    · exact ⟨_, if_neg h, rfl⟩
  | call nnn =>
    by_cases h : s.sp = 15
    · exact ⟨_, if_pos h, rfl⟩
    · exact ⟨_, if_neg h, rfl⟩
  | ldVxK x => exact ⟨_, rfl, by split <;> rfl⟩
  -- every other instruction always completes, and none of its writes is to `DRAW`
  | _ => exact ⟨_, rfl, rfl⟩

/-- `DRW` either completes and sets `DRAW`, or faults and writes only the fault status (R141, R183). -/
theorem exec_drw_draw_cases (x y n : Nibble) (s : State) :
    ∃ t, exec (.drw x y n) s = .next t ∧
      (t.draw = true ∧ t.fault = s.fault ∨ t.draw = s.draw ∧ t.fault = .memOutOfBounds) := by
  rcases withData_cases s n.toNat
    (complete ((s.display (drawSprite x y n s).1).setFlag (drawSprite x y n s).2).advance)
    with ⟨-, h⟩ | ⟨-, h⟩
  · exact ⟨_, h, .inl ⟨rfl, rfl⟩⟩
  · exact ⟨_, h, .inr ⟨rfl, rfl⟩⟩

/-- Executed in a running state with `DRAW` cleared, an instruction leaves `DRAW` set exactly when it is
`CLS`, or a `DRW` that did not fault. -/
theorem exec_draw_iff (i : Instr) (s : State) (hdraw : s.draw = false) (hrun : s.fault = .none) :
    ∃ t, exec i s = .next t ∧
      (t.draw = true ↔ i = .cls ∨ ∃ x y n, i = .drw x y n ∧ t.fault = .none) := by
  by_cases hcls : i = .cls
  · subst hcls
    exact ⟨_, rfl, by simp⟩
  by_cases hdrw : ∃ x y n, i = .drw x y n
  · obtain ⟨x, y, n, rfl⟩ := hdrw
    obtain ⟨t, ht, ⟨hd, hf⟩ | ⟨hd, hf⟩⟩ := exec_drw_draw_cases x y n s
    · exact ⟨t, ht, by simp [hd, hf, hrun]⟩
    · exact ⟨t, ht, by simp [hd, hf, hdraw]⟩
  · obtain ⟨t, ht, hd⟩ := exec_keeps_draw i s hcls fun x y n h => hdrw ⟨x, y, n, h⟩
    refine ⟨t, ht, ?_⟩
    rw [hd, hdraw]
    exact iff_of_false Bool.false_ne_true
      (not_or.2 ⟨hcls, fun ⟨x, y, n, h, _⟩ => hdrw ⟨x, y, n, h⟩⟩)

/-- Phase 0 overwrites `DRAW` before anything could read it (R91). -/
theorem step_ignores_draw (s : State) (hrun : s.fault = .none) (b : Bool) :
    step { s with draw := b } = step s :=
  (if_pos hrun).trans (if_pos hrun).symm

/-- `DRAW` after a step of a running machine. -/
theorem step_draw_iff (s : State) (hrun : s.fault = .none) :
    ∃ t, step s = .next t ∧
      (t.draw = true ↔ s.pc.toNat ≤ 4094 ∧
        (decode (s.opcodeAt s.pc.toNat) = .cls ∨
         ∃ x y n, decode (s.opcodeAt s.pc.toNat) = .drw x y n ∧ t.fault = .none)) := by
  rcases step_cases s with ⟨hf, -⟩ | ⟨-, hpc, hstep⟩ | ⟨-, hpc, hstep⟩
  · exact absurd hrun hf
  · exact ⟨_, hstep, iff_of_false Bool.false_ne_true fun h => Nat.not_le.2 hpc h.1⟩
  · obtain ⟨t, ht, hdraw⟩ := exec_draw_iff (decode (Memory.word s.mem s.pc.toNat)) s.enter rfl hrun
    refine ⟨t.nextInput, by rw [hstep, ht, endStep], ?_⟩
    rw [State.opcodeAt_eq]
    exact hdraw.trans (and_iff_right hpc).symm

/-- Settles O46: `DRAW` is cleared on entry, only `CLS` and a completed `DRW` set it again, and nothing
reads it. -/
theorem drawFlagLivesOneStep : Obligations.DrawFlagLivesOneStep :=
  ⟨rfl, fun s hrun => ⟨step_ignores_draw s hrun, step_draw_iff s hrun⟩⟩

end Sys2Proof.Machine

namespace Sys2Proof.Machine

/-! ### The blocked step (`40_step_cycle.md` R96) -/

/-- A running machine whose `pc` is in bounds executes the instruction at its `pc`, after `DRAW <- 0` and
before the next input is taken (R91 to R94). -/
theorem step_of_decode (s : State) {i : Instr} (hrun : s.fault = .none) (hpc : s.pc.toNat ≤ 4094)
    (hop : decode (s.opcodeAt s.pc.toNat) = i) :
    step s = mapNext State.inputTaken (exec i s.enter) := by
  rw [State.opcodeAt_eq] at hop
  rcases step_cases s with ⟨hf, -⟩ | ⟨-, hout, -⟩ | ⟨-, -, hstep⟩
  · exact absurd hrun hf
  · exact absurd hpc (Nat.not_le.2 hout)
  · rw [hstep, hop, endStep_eq]

theorem scanKeys_zero : scanKeys 0 = none := by decide

/-- With no key down `LD Vx, K` leaves the whole state alone, the timers too (R152, R96). -/
theorem exec_ldVxK_of_no_key (x : Nibble) (s : State) (hkeys : s.keys = 0) :
    exec (.ldVxK x) s = .next s := by
  rw [exec, execLdVxK, hkeys, scanKeys_zero]

/-- Settles O47: `LD Vx, K` writes nothing when no key is down, so the step only clears `DRAW` and takes
its input, and memory and `pc` still give the same word. -/
theorem blockedStepChangesNothing : Obligations.BlockedStepChangesNothing := by
  intro s x hrun hpc hop hkeys
  refine ⟨s.enter.inputTaken, ?_, rfl, rfl⟩
  rw [step_of_decode s hrun hpc hop, exec_ldVxK_of_no_key x s.enter hkeys]
  rfl

end Sys2Proof.Machine

namespace Sys2Proof.Machine

/-! ### Jumps and skips (`41_control_flow.md` R101, R103 to R106) -/

theorem zextAddr_toNat (nnn : Addr12) : (zextAddr nnn).toNat = nnn.toNat :=
  BitVec.toNat_setWidth_of_le (by decide)

theorem ticked_tick (s : State) : Ticked s s.tick :=
  ⟨tickDown_toNat s.dt, tickDown_toNat s.st⟩

/-- The frame of every completed instruction that writes at most registers, `I` and `pc`. -/
theorem onlyRegsIndexPc_tick (s : State) (v : Vector Byte 16) (i pc : Word) :
    OnlyRegsIndexPc s (State.tick { s with v := v, i := i, pc := pc }) :=
  ⟨fun _ => rfl, ⟨rfl, fun _ => rfl⟩, ⟨fun _ => rfl, rfl⟩, ⟨rfl, rfl⟩, ⟨rfl, rfl⟩, ticked_tick s⟩

/-- An instruction that completes after writing `pc` alone. -/
theorem complete_setPc (s : State) (a : Word) :
    ∃ t, complete (s.setPc a) = .next t ∧ t.pc = a ∧ t.i = s.i ∧ SameRegs s t ∧
      OnlyRegsIndexPc s t :=
  ⟨_, rfl, rfl, rfl, fun _ => rfl, onlyRegsIndexPc_tick s s.v s.i a⟩

/-- A skip taken when two bytes are equal. -/
theorem complete_skipIf_eq (s : State) (b c : Byte) :
    ∃ t, complete (s.skipIf (decide (b = c))) = .next t ∧
      t.pc = (if b = c then s.pc + 4 else s.pc + 2) ∧ t.i = s.i ∧ SameRegs s t ∧
      OnlyRegsIndexPc s t := by
  rw [State.skipIf]
  simp only [decide_eq_true_eq]
  exact complete_setPc s _

/-- A skip taken when two bytes differ. -/
theorem complete_skipIf_ne (s : State) (b c : Byte) :
    ∃ t, complete (s.skipIf (decide (b ≠ c))) = .next t ∧
      t.pc = (if b = c then s.pc + 2 else s.pc + 4) ∧ t.i = s.i ∧ SameRegs s t ∧
      OnlyRegsIndexPc s t := by
  rw [State.skipIf]
  simp only [decide_eq_true_eq, ne_eq, ite_not]
  exact complete_setPc s _

/-- Settles O7: `JP` writes `pc` alone, and zero extension keeps the number. -/
theorem jpGoesToAddress : Obligations.JpGoesToAddress := by
  intro s nnn
  obtain ⟨t, ht, hpc, hframe⟩ := complete_setPc s (zextAddr nnn)
  exact ⟨t, ht, by rw [hpc, zextAddr_toNat], hframe⟩

/-- Settles O9: both are skips on `V[x]` and the immediate. -/
theorem skipComparesImmediate : Obligations.SkipComparesImmediate :=
  fun s x kk => ⟨complete_skipIf_eq s (s.reg x) kk, complete_skipIf_ne s (s.reg x) kk⟩

/-- Settles O10: both are skips on `V[x]` and `V[y]`. -/
theorem skipComparesRegisters : Obligations.SkipComparesRegisters :=
  fun s x y => ⟨complete_skipIf_eq s (s.reg x) (s.reg y), complete_skipIf_ne s (s.reg x) (s.reg y)⟩

end Sys2Proof.Machine

namespace Sys2Proof.Machine

/-! ### Loads and arithmetic with an immediate (`42_load_alu.md` R111, R112) -/

/-- The shared end of the instructions that only give one register a value: that register alone changes,
`VF` included. -/
theorem loadReg_eq_next (x : Nibble) (b : Byte) (s : State) :
    ∃ t, loadReg x b s = .next t ∧ (∀ r, t.reg r = if r = x then b else s.reg r) ∧
      t.pc = s.pc + 2 ∧ t.i = s.i ∧ OnlyRegsIndexPc s t :=
  ⟨_, rfl, fun r => s.reg_setReg x r b, rfl, rfl, onlyRegsIndexPc_tick s _ _ _⟩

/-- Settles O13: `LD Vx, kk` gives `V[x]` the immediate. -/
theorem loadImmediate : Obligations.LoadImmediate :=
  fun s x kk => loadReg_eq_next x kk s

/-- Settles O14: `ADD Vx, kk` gives `V[x]` the sum as a byte, which is the sum modulo 256. -/
theorem addImmediateSetsNoFlag : Obligations.AddImmediateSetsNoFlag := by
  intro s x kk
  obtain ⟨t, ht, hreg, hframe⟩ := loadReg_eq_next x (s.reg x + kk) s
  have hsum : t.reg x = s.reg x + kk := (hreg x).trans (if_pos rfl)
  have hother : ∀ r, r ≠ x → t.reg r = s.reg r := fun r hr => (hreg r).trans (if_neg hr)
  exact ⟨t, ht, by rw [hsum, BitVec.toNat_add], hother, hframe⟩

end Sys2Proof.Machine

namespace Sys2Proof.Machine

/-! ### The index register (`43_index.md` R130) -/

/-- The shared end of the instructions that only give `I` a value: no register changes, `VF` included. -/
theorem loadIndex_eq_next (a : Word) (s : State) :
    ∃ t, loadIndex a s = .next t ∧ t.i = a ∧ t.pc = s.pc + 2 ∧ SameRegs s t ∧
      OnlyRegsIndexPc s t :=
  ⟨_, rfl, rfl, rfl, fun _ => rfl, onlyRegsIndexPc_tick s s.v a (s.pc + 2)⟩

/-- Settles O19: `LD I, nnn` gives `I` the zero-extended address, and zero extension keeps the number. -/
theorem loadIndexSetsAddress : Obligations.LoadIndex := by
  intro s nnn
  obtain ⟨t, ht, hi, hframe⟩ := loadIndex_eq_next (zextAddr nnn) s
  exact ⟨t, ht, by rw [hi, zextAddr_toNat], hframe⟩

end Sys2Proof.Machine

namespace Sys2Proof.Machine

/-! ### The framebuffer (`45_display.md` R140, R143) -/

/-- The state with another framebuffer. -/
def State.withFb (f : Framebuffer) (s : State) : State := { s with fb := f }

@[simp] theorem State.withFb_i (f : Framebuffer) (s : State) : (s.withFb f).i = s.i := rfl
@[simp] theorem State.withFb_keys (f : Framebuffer) (s : State) : (s.withFb f).keys = s.keys := rfl
@[simp] theorem State.reg_withFb (f : Framebuffer) (s : State) (r : Nibble) :
    (s.withFb f).reg r = s.reg r := rfl

/-- The bounds check does not read the framebuffer, and its fault leaves the framebuffer alone (R53,
R183). -/
theorem withData_withFb (count : Nat) (s : State) (f : Framebuffer) {body body' : Result}
    (hbody : body' = mapNext (State.withFb f) body) :
    withData count (s.withFb f) body' = mapNext (State.withFb f) (withData count s body) := by
  rw [withData, withData, State.withFb_i]
  cases dataFault s.i count with
  | none => exact hbody
  | some info => rfl

/-- The key check does not read the framebuffer, and its fault leaves the framebuffer alone (R150,
R183). -/
theorem withKey_withFb (symbol : Byte) (s : State) (f : Framebuffer) {body body' : Result}
    (hbody : body' = mapNext (State.withFb f) body) :
    withKey symbol (s.withFb f) body' = mapNext (State.withFb f) (withKey symbol s body) := by
  rw [withKey, withKey, apply_ite (mapNext (State.withFb f)), hbody]
  rfl

/-- Every instruction but `CLS` and `DRW` commutes with a change of the framebuffer: it neither reads nor
writes it. -/
theorem exec_withFb (i : Instr) (s : State) (f : Framebuffer) (hcls : i ≠ .cls)
    (hdrw : ∀ x y n, i ≠ .drw x y n) :
    exec i (s.withFb f) = mapNext (State.withFb f) (exec i s) := by
  cases i with
  | cls => exact absurd rfl hcls
  | drw x y n => exact absurd rfl (hdrw x y n)
  | skp x | sknp x => exact withKey_withFb _ s f rfl
  | ldBVx x | ldMemVx x | ldVxMem x => exact withData_withFb _ s f rfl
  | ret | call nnn =>
    simp only [exec, execRet, execCall, apply_ite (mapNext (State.withFb f))]
    rfl
  | ldVxK x =>
    rw [exec, exec, execLdVxK, execLdVxK, State.withFb_keys]
    cases scanKeys s.keys with
    | none => rfl
    | some k => rfl
  -- every other instruction always completes, and its writes are functions of the other fields
  | _ => rfl

/-- `DRW` on two states that differ in the framebuffer alone: it faults in both or in neither, and what it
leaves differs in the framebuffer and in `VF` alone. -/
theorem exec_drw_withFb (x y n : Nibble) (s : State) (f : Framebuffer) :
    ∃ t u, exec (.drw x y n) s = .next t ∧ exec (.drw x y n) (s.withFb f) = .next u ∧
      t = { u with fb := t.fb, v := t.v } ∧ ∀ r, r ≠ 15 → t.reg r = u.reg r := by
  simp only [exec, execDrw, withData, State.withFb_i]
  cases dataFault s.i n.toNat with
  | some info => exact ⟨_, _, rfl, rfl, rfl, fun _ _ => rfl⟩
  | none =>
    refine ⟨_, _, rfl, rfl, rfl, fun r hr => ?_⟩
    simp only [State.reg_tick, State.reg_advance, State.reg_setFlag, if_neg hr, State.reg_display,
      State.reg_withFb]

/-- Settles O4: `CLS` overwrites the framebuffer without reading it, `DRW` reads it only for the cells and
for `VF`, and every other instruction commutes with a change of it. -/
theorem framebufferOnlyThroughDrw : Obligations.FramebufferOnlyThroughDrw :=
  fun s f => ⟨fun i => exec_withFb i s f, rfl, fun x y n => exec_drw_withFb x y n s f⟩

/-- Settles O1: the framebuffer `CLS` writes is blank, and no other field is written but `DRAW`, `pc` and
the timers. -/
theorem clsBlanksScreen : Obligations.ClsBlanksScreen :=
  fun _ => ⟨_, rfl, Framebuffer.pixel_blank, rfl, rfl, rfl, fun _ => rfl, fun _ => rfl,
    ⟨rfl, fun _ => rfl⟩, ⟨rfl, rfl⟩, ⟨rfl, rfl⟩, ticked_tick _⟩

end Sys2Proof.Machine

namespace Sys2Proof.Machine

/-! ### The load of a program (`70_reset_and_hazards.md` R205, R206) -/

/-- An image that fits from 0x200 to the end of memory is stored there, and the load writes memory alone. -/
theorem State.loadImage_eq_some (s : State) {image : List Byte} (hfit : image.length ≤ 3584) :
    s.loadImage image = some (s.setMem (Memory.writeBytes s.mem 0x200 image)) := if_pos hfit

/-- A longer image is refused (R206). -/
theorem State.loadImage_eq_none (s : State) {image : List Byte} (hlong : 3584 < image.length) :
    s.loadImage image = none := if_neg (Nat.not_le.2 hlong)

/-- An image that fits, stored at 0x200 over a memory in canonical form: its own bytes there, and the old
byte at every other address. -/
theorem Memory.read_writeBytes_image {m : Memory} {image : List Byte} (hwf : m.wf = true)
    (hfit : image.length ≤ 3584) (a : Nat) :
    Memory.read (Memory.writeBytes m 0x200 image) a =
      if 0x200 ≤ a then image.getD (a - 0x200) (Memory.read m a) else Memory.read m a :=
  have hend : 0x200 + image.length ≤ Config.memSize := Nat.add_le_add_left hfit 0x200
  Memory.read_writeBytes hwf (.inr hend) a

/-- Settles O52: the load of the reset state stores the image at 0x200, which leaves every other address
and, as reset memory lists no cell, every other field at reset. -/
theorem launchPlacesImage : Obligations.LaunchPlacesImage :=
  fun _ => ⟨State.loadImage_eq_none State.reset, fun hfit =>
    ⟨_, State.loadImage_eq_some State.reset hfit, Memory.read_writeBytes_image rfl hfit, rfl⟩⟩

end Sys2Proof.Machine

namespace Sys2Proof

/-! ### Which words a row of the opcode map covers (`30_encoding.md` R73, R75) -/

theorem formatNNN_eq_iff {f : Nibble} {a : Addr12} {v : Word} :
    formatNNN f a = v ↔ f = fieldF v ∧ a = fieldNNN v := by
  refine ⟨?_, fun ⟨hf, ha⟩ => hf ▸ ha ▸ formatNNN_fields v⟩
  rintro rfl
  simp

theorem formatXKK_eq_iff {f x : Nibble} {a : Byte} {v : Word} :
    formatXKK f x a = v ↔ f = fieldF v ∧ x = fieldX v ∧ a = fieldKK v := by
  refine ⟨?_, fun ⟨hf, hx, ha⟩ => hf ▸ hx ▸ ha ▸ formatXKK_fields v⟩
  rintro rfl
  simp

theorem formatXYN_eq_iff {f x y n : Nibble} {v : Word} :
    formatXYN f x y n = v ↔ f = fieldF v ∧ x = fieldX v ∧ y = fieldY v ∧ n = fieldN v := by
  refine ⟨?_, fun ⟨hf, hx, hy, hn⟩ => hf ▸ hx ▸ hy ▸ hn ▸ formatXYN_fields v⟩
  rintro rfl
  simp

/-- The mask of the formats that fix the family alone. The fields of the match are written as bit
ranges, here and below, so that `simp` evaluates them on the literals of the table. -/
theorem and_family_eq_iff (op v : Word) :
    op &&& 0xF000 = v ↔ fieldF op = v.extractLsb' 12 4 ∧ 0 = v.extractLsb' 0 12 := by
  have h := Laws.EncodeRow.mask_nnn (fieldF op) (fieldNNN op)
  rw [formatNNN_fields] at h
  exact h ▸ formatNNN_eq_iff

/-- The mask of the formats that fix the family and the low nibble. -/
theorem and_familyN_eq_iff (op v : Word) :
    op &&& 0xF00F = v ↔ fieldF op = v.extractLsb' 12 4 ∧ 0 = v.extractLsb' 8 4 ∧
      0 = v.extractLsb' 4 4 ∧ fieldN op = v.extractLsb' 0 4 := by
  have h := Laws.EncodeRow.mask_xy (fieldF op) (fieldX op) (fieldY op) (fieldN op)
  rw [formatXYN_fields] at h
  exact h ▸ formatXYN_eq_iff

/-- The mask of the formats that fix the family and the low byte. -/
theorem and_familyKK_eq_iff (op v : Word) :
    op &&& 0xF0FF = v ↔ fieldF op = v.extractLsb' 12 4 ∧ 0 = v.extractLsb' 8 4 ∧
      fieldKK op = v.extractLsb' 0 8 := by
  have h := Laws.EncodeRow.mask_x (fieldF op) (fieldX op) (fieldKK op)
  rw [formatXKK_fields] at h
  exact h ▸ formatXKK_eq_iff

/-- The mask of the two words of family 0, with the family kept apart for the case splits below. -/
theorem and_whole_eq_iff (op v : Word) :
    op &&& 0xFFFF = v ↔ fieldF op = v.extractLsb' 12 4 ∧ op = v := by
  rw [show op &&& 0xFFFF = op from BitVec.and_allOnes]
  exact ⟨fun h => ⟨h ▸ rfl, h⟩, And.right⟩

/-- Two rows are exclusive when their matches differ in a bit that both of them fix. -/
theorem rows_exclusive {a b : OpcodeRow} (h : a.value &&& b.mask ≠ b.value &&& a.mask) (op : Word) :
    ¬(op &&& a.mask = a.value ∧ op &&& b.mask = b.value) := by
  rintro ⟨ha, hb⟩
  refine h ?_
  rw [← ha, ← hb, BitVec.and_assoc, BitVec.and_assoc, BitVec.and_comm a.mask]

/-- Settles O57: any two of the 34 matches differ in a bit that both rows fix. -/
theorem opcodeRowsExclusive : Obligations.OpcodeRowsExclusive := by
  have hdiffer : opcodeRows.Pairwise fun a b => a.value &&& b.mask ≠ b.value &&& a.mask := by decide
  exact ⟨rfl, hdiffer.imp rows_exclusive⟩

/-! ### Which words decode to the no-operation (R77) -/

/-- The sixteen families. -/
theorem nibble_cases (f : Nibble) : f = 0#4 ∨ f = 1#4 ∨ f = 2#4 ∨ f = 3#4 ∨ f = 4#4 ∨ f = 5#4 ∨
    f = 6#4 ∨ f = 7#4 ∨ f = 8#4 ∨ f = 9#4 ∨ f = 10#4 ∨ f = 11#4 ∨ f = 12#4 ∨ f = 13#4 ∨
    f = 14#4 ∨ f = 15#4 := by
  revert f; decide

theorem decodeSystem_eq_nop_iff (op : Word) :
    decodeSystem op = .nop op ↔ op ≠ 0x00E0 ∧ op ≠ 0x00EE := by
  unfold decodeSystem
  split
  · simp_all
  · split <;> simp_all

theorem decodeAlu_eq_nop_iff (op : Word) :
    decodeAlu op = .nop op ↔ fieldN op ∉ [0, 1, 2, 3, 4, 5, 6, 7, 0xE] := by
  unfold decodeAlu
  split <;> simp_all

theorem decodeKey_eq_nop_iff (op : Word) :
    decodeKey op = .nop op ↔ fieldKK op ∉ [0x9E, 0xA1] := by
  unfold decodeKey
  split <;> simp_all

theorem decodeMisc_eq_nop_iff (op : Word) :
    decodeMisc op = .nop op ↔
      fieldKK op ∉ [0x07, 0x0A, 0x15, 0x18, 0x1E, 0x29, 0x33, 0x55, 0x65] := by
  unfold decodeMisc
  split <;> simp_all

/-- Only six families hold words that are no instruction. -/
theorem decode_eq_nop_iff (op : Word) : decode op = .nop op ↔
    (fieldF op = 0 ∧ op ≠ 0x00E0 ∧ op ≠ 0x00EE) ∨
    (fieldF op = 5 ∧ fieldN op ≠ 0) ∨
    (fieldF op = 8 ∧ fieldN op ∉ [0, 1, 2, 3, 4, 5, 6, 7, 0xE]) ∨
    (fieldF op = 9 ∧ fieldN op ≠ 0) ∨
    (fieldF op = 14 ∧ fieldKK op ∉ [0x9E, 0xA1]) ∨
    (fieldF op = 15 ∧ fieldKK op ∉ [0x07, 0x0A, 0x15, 0x18, 0x1E, 0x29, 0x33, 0x55, 0x65]) := by
  rw [← decodeSystem_eq_nop_iff, ← decodeAlu_eq_nop_iff, ← decodeKey_eq_nop_iff,
    ← decodeMisc_eq_nop_iff]
  rcases nibble_cases (fieldF op) with h | h | h | h | h | h | h | h | h | h | h | h | h | h | h | h
  all_goals simp [decode, h]

/-- The decoder and the table of masks and matches agree on which words are instructions (R75, R77). -/
theorem decode_eq_nop_iff_not_recognised (op : Word) :
    decode op = .nop op ↔ recognised op = false := by
  simp only [decode_eq_nop_iff, recognised, List.any_eq_false, OpcodeRow.covers, beq_iff_eq,
    opcodeRows, opcodeRowsLow, opcodeRowsAlu, opcodeRowsHigh, opcodeRowsMisc, List.cons_append,
    List.nil_append, List.forall_mem_cons, and_family_eq_iff, and_familyN_eq_iff,
    and_familyKK_eq_iff, and_whole_eq_iff]
  rcases nibble_cases (fieldF op) with h | h | h | h | h | h | h | h | h | h | h | h | h | h | h | h
  all_goals simp [h]

/-- The low nibbles of family 8 that select no operation. -/
theorem notMem_aluOps_iff (n : Nibble) :
    n ∉ [0, 1, 2, 3, 4, 5, 6, 7, 0xE] ↔ n.toNat ∈ [8, 9, 10, 11, 12, 13, 15] := by
  revert n; decide

/-- Settles O58: the six families of `decode_eq_nop_iff`, their fields written as numbers. -/
theorem unrecognisedWordsExactly : Obligations.UnrecognisedWordsExactly := by
  intro op
  have hlow : op.toNat < 0x1000 ↔ op.toNat / 4096 = 0 := by omega
  rw [decode_eq_nop_iff, notMem_aluOps_iff, hlow]
  simp [← BitVec.toNat_inj, fieldF_toNat, fieldN_toNat, fieldKK_toNat]

/-! ### Decoding and encoding (R82) -/

theorem encode_decodeSystem (op : Word) : encode (decodeSystem op) = op := by
  unfold decodeSystem
  split
  · exact (‹op = 0x00E0›).symm
  · split
    · exact (‹op = 0x00EE›).symm
    · rfl

theorem encode_decodeAlu (op : Word) (hF : fieldF op = 8) : encode (decodeAlu op) = op := by
  unfold decodeAlu
  split
  iterate 9
    next hN => exact formatXYN_eq_iff.2 ⟨hF.symm, rfl, rfl, hN.symm⟩
  rfl

theorem encode_decodeKey (op : Word) (hF : fieldF op = 14) : encode (decodeKey op) = op := by
  unfold decodeKey
  split
  iterate 2
    next hKK => exact formatXKK_eq_iff.2 ⟨hF.symm, rfl, hKK.symm⟩
  rfl

theorem encode_decodeMisc (op : Word) (hF : fieldF op = 15) : encode (decodeMisc op) = op := by
  unfold decodeMisc
  split
  iterate 9
    next hKK => exact formatXKK_eq_iff.2 ⟨hF.symm, rfl, hKK.symm⟩
  rfl

/-- Every word is the encoding of what it decodes to: an instruction keeps all the fields of its
format, and `nop` the whole word (R82; log entry 11). -/
theorem encode_decode (op : Word) : encode (decode op) = op := by
  have hnnn : ∀ f, fieldF op = f → formatNNN f (fieldNNN op) = op :=
    fun f hF => formatNNN_eq_iff.2 ⟨hF.symm, rfl⟩
  have hxkk : ∀ f, fieldF op = f → formatXKK f (fieldX op) (fieldKK op) = op :=
    fun f hF => formatXKK_eq_iff.2 ⟨hF.symm, rfl, rfl⟩
  have hxyn : ∀ f n, fieldF op = f → fieldN op = n → formatXYN f (fieldX op) (fieldY op) n = op :=
    fun f n hF hN => formatXYN_eq_iff.2 ⟨hF.symm, rfl, rfl, hN.symm⟩
  rcases nibble_cases (fieldF op) with h | h | h | h | h | h | h | h | h | h | h | h | h | h | h | h
  all_goals simp only [decode, h]
  · exact encode_decodeSystem op
  · exact hnnn 1 h
  · exact hnnn 2 h
  · exact hxkk 3 h
  · exact hxkk 4 h
  · split
    · exact hxyn 5 0 h ‹_›
    · rfl
  · exact hxkk 6 h
  · exact hxkk 7 h
  · exact encode_decodeAlu op h
  · split
    · exact hxyn 9 0 h ‹_›
    · rfl
  · exact hnnn 10 h
  · exact hnnn 11 h
  · exact hxkk 12 h
  · exact hxyn 13 _ h rfl
  · exact encode_decodeKey op h
  · exact encode_decodeMisc op h

theorem wellFormed_decode (op : Word) : (decode op).wellFormed = true := by
  cases h : decode op with
  | nop w =>
    have hw : w = op := by simpa only [h, encode] using encode_decode op
    subst hw
    rw [Instr.wellFormed, (decode_eq_nop_iff_not_recognised w).1 h, Bool.not_false]
  -- `nop` alone has a check
  | _ => rfl

/-- Settles O56: `encode_decode`, and `nop` carries only unrecognised words. -/
theorem encodeDecodeIsWord : Obligations.EncodeDecodeIsWord :=
  fun op => ⟨encode_decode op, wellFormed_decode op⟩

/-- Settles O55: the fields of a format are its operands, and the word of a well-formed `nop` is
unrecognised. -/
theorem decodeEncodeRoundTrip : Obligations.DecodeEncodeRoundTrip := by
  intro i hwf
  cases i with
  | nop op =>
    rw [Instr.wellFormed, Bool.not_eq_true'] at hwf
    exact (decode_eq_nop_iff_not_recognised op).2 hwf
  | cls | ret => rfl
  -- the fields of every other word are those its format was made of
  | _ => simp [encode, decode, decodeAlu, decodeKey, decodeMisc]

/-- The words of `LD Vx, K` are those of its row. -/
theorem decode_eq_ldVxK_iff (op : Word) :
    (∃ x, decode op = .ldVxK x) ↔ op &&& 0xF0FF = 0xF00A := by
  constructor
  · rintro ⟨x, h⟩
    rw [← encode_decode op, h]
    exact Laws.EncodeRow.ldVxK x rfl
  · intro h
    obtain ⟨hF, -, hKK⟩ := (and_familyKK_eq_iff op 0xF00A).1 h
    exact ⟨fieldX op, by simp [decode, decodeMisc, hF, hKK]⟩

/-- Settles O59: the decoder evaluates to the stated instruction on each of these words. -/
theorem sampleWordsDecode : Obligations.SampleWordsDecode := by
  unfold Obligations.SampleWordsDecode
  decide

end Sys2Proof

namespace Sys2Proof.Machine

/-! ### What executing an instruction answers (`40_step_cycle.md` R94) -/

/-- The two ends of an instruction that does not block: its cause to fault is recorded in the state
before it, or it has written its state and the timers tick (R94 (a) and (c)). -/
def raiseOrComplete (cause : Option (FaultCode × Word)) (before written : State) : Result :=
  match cause with
  | some (code, info) => raiseFault code info before
  | none => complete written

/-- The state as an instruction that neither faults nor blocks has written it, before the tick. It is
`exec` without the checks, by `exec_eq_raiseOrComplete`. -/
def writes (i : Instr) (s : State) : State :=
  match i with
  | .cls => (s.display Framebuffer.blank).advance
  | .ret => s.pop.setPc (s.top + 2)
  | .jp nnn => s.setPc (zextAddr nnn)
  | .call nnn => (s.push s.pc).setPc (zextAddr nnn)
  | .seImm x kk => s.skipIf (decide (s.reg x = kk))
  | .sneImm x kk => s.skipIf (decide (s.reg x ≠ kk))
  | .seReg x y => s.skipIf (decide (s.reg x = s.reg y))
  | .sneReg x y => s.skipIf (decide (s.reg x ≠ s.reg y))
  | .ldImm x kk => (s.setReg x kk).advance
  | .addImm x kk => (s.setReg x (s.reg x + kk)).advance
  | .ldReg x y => (s.setReg x (s.reg y)).advance
  | .orReg x y => (s.setReg x (s.reg x ||| s.reg y)).advance
  | .andReg x y => (s.setReg x (s.reg x &&& s.reg y)).advance
  | .xorReg x y => (s.setReg x (s.reg x ^^^ s.reg y)).advance
  | .addReg x y => (s.setFlagThenReg (carryOut (s.reg x) (s.reg y)) x (s.reg x + s.reg y)).advance
  | .subReg x y => (s.setFlagThenReg (noBorrow (s.reg x) (s.reg y)) x (s.reg x - s.reg y)).advance
  | .shr x _ => (s.setFlagThenReg (shiftedOutRight (s.reg x)) x (s.reg x >>> 1)).advance
  | .subnReg x y => (s.setFlagThenReg (noBorrow (s.reg y) (s.reg x)) x (s.reg y - s.reg x)).advance
  | .shl x _ => (s.setFlagThenReg (shiftedOutLeft (s.reg x)) x (s.reg x <<< 1)).advance
  | .ldI nnn => (s.setIndex (zextAddr nnn)).advance
  | .jpV0 nnn => s.setPc (zextAddr nnn + zextByte (s.reg 0))
  | .rnd x kk => (s.setReg x (s.rnd &&& kk)).advance
  | .drw x y n => ((s.display (drawSprite x y n s).1).setFlag (drawSprite x y n s).2).advance
  | .skp x => s.skipIf (keyDown s.keys (s.reg x).toNat)
  | .sknp x => s.skipIf (!keyDown s.keys (s.reg x).toNat)
  | .ldVxDT x => (s.setReg x s.dt).advance
  | .ldVxK x => (s.setReg x ((scanKeys s.keys).getD 0)).advance
  | .ldDTVx x => (s.setDelay (s.reg x)).advance
  | .ldSTVx x => (s.setSound (s.reg x)).advance
  | .addIVx x => (s.setIndex (s.i + zextByte (s.reg x))).advance
  | .ldFVx x => (s.setIndex (glyphAddress (s.reg x))).advance
  | .ldBVx x => (s.setMem (Memory.writeBytes s.mem s.i.toNat (decimalDigits (s.reg x)))).advance
  | .ldMemVx x => ((s.setMem (Memory.writeBytes s.mem s.i.toNat (s.regsBelow x.toNat))).setIndex
      (indexAfter s x.toNat)).advance
  | .ldVxMem x => ((s.setRegsBelow x.toNat (Memory.readBytes s.mem s.i.toNat x.toNat)).setIndex
      (indexAfter s x.toNat)).advance
  | .nop _ => s.advance

/-- The writes of `LD Vx, [I]` as one record, whose other fields reduce without a look at the registers
loaded. -/
theorem writes_ldVxMem (x : Nibble) (s : State) : writes (.ldVxMem x) s =
    { s with
      v := (s.setRegsBelow x.toNat (Memory.readBytes s.mem s.i.toNat x.toNat)).v
      i := indexAfter s x.toNat
      pc := s.pc + 2 } := by
  simp only [writes, State.advance, State.setPc, State.setIndex, State.setRegsBelow]

/-- The instruction waits for a key and none is down (R96). -/
def Blocked (i : Instr) (s : State) : Prop := (∃ x, i = .ldVxK x) ∧ s.keys = 0

theorem offEndCause_eq_some {base : Word} {count : Nat} (hc : count ≠ 0)
    (hb : 4096 < base.toNat + count) :
    offEndCause base count = some (.memOutOfBounds, BitVec.ofNat 16 (max base.toNat 4096)) :=
  if_pos (by simp [offEnd, hc, hb])

theorem offEndCause_eq_none {base : Word} {count : Nat} :
    offEndCause base count = none ↔ count = 0 ∨ base.toNat + count ≤ 4096 := by
  simp [offEndCause, offEnd, imp_iff_not_or]

/-- The bounds check faults as the table of faults says (R53, R182). -/
theorem withData_complete (count : Nat) (s u : State) :
    withData count s (complete u) = raiseOrComplete (offEndCause s.i count) s u := by
  rcases withData_cases s count (complete u) with ⟨hin, h⟩ | ⟨⟨hc, hb⟩, h⟩
  · rw [h, offEndCause_eq_none.2 hin]; rfl
  · rw [h, offEndCause_eq_some hc hb]; rfl

/-- The key check faults as the table of faults says (R150, R182). -/
theorem withKey_complete (symbol : Byte) (s u : State) :
    withKey symbol s (complete u) = raiseOrComplete (badKeyCause symbol) s u := by
  rcases withKey_cases s symbol (complete u) with ⟨hin, h⟩ | ⟨hout, h⟩
  · rw [h, badKeyCause, if_neg (Nat.not_lt.2 hin)]; rfl
  · rw [h, badKeyCause, if_pos hout, zextByte, ← BitVec.ofNat_toNat]; rfl

/-- Where no key is waited for in vain, an instruction does what the table of faults and its writes
say. -/
theorem exec_eq_raiseOrComplete (i : Instr) (s : State) (hb : ¬Blocked i s) :
    exec i s = raiseOrComplete (faultCause i s) s (writes i s) := by
  cases i with
  | drw x y n => exact withData_complete n.toNat s _
  | ldBVx x => exact withData_complete 3 s _
  | ldMemVx x | ldVxMem x => exact withData_complete x.toNat s _
  | skp x | sknp x => exact withKey_complete (s.reg x) s _
  | ret =>
    by_cases h : s.sp = 0
    · simp only [exec, execRet, faultCause, h, if_true]; rfl
    · simp only [exec, execRet, faultCause, h, if_false]; rfl
  | call nnn =>
    by_cases h : s.sp = 15
    · simp only [exec, execCall, faultCause, h, if_true, zextAddr, BitVec.ofNat_toNat]; rfl
    · simp only [exec, execCall, faultCause, h, if_false]; rfl
  | ldVxK x =>
    rcases scanKeys_cases s.keys with ⟨-, hkeys⟩ | ⟨b, hscan, -⟩
    · exact absurd ⟨⟨x, rfl⟩, hkeys⟩ hb
    · simp only [exec, execLdVxK, hscan, writes, Option.getD_some]; rfl
  -- every other instruction always completes
  | _ => rfl

theorem exec_of_faultCause {i : Instr} {s : State} {code : FaultCode} {info : Word}
    (h : faultCause i s = some (code, info)) : exec i s = .next (s.raise code info) := by
  have hb : ¬Blocked i s := by
    rintro ⟨⟨x, rfl⟩, -⟩
    cases h
  rw [exec_eq_raiseOrComplete i s hb, h]
  rfl

theorem exec_of_blocked {i : Instr} {s : State} (hb : Blocked i s) : exec i s = .next s := by
  obtain ⟨⟨x, rfl⟩, hkeys⟩ := hb
  exact exec_ldVxK_of_no_key x s hkeys

theorem exec_of_completes {i : Instr} {s : State} (h : faultCause i s = none)
    (hb : ¬Blocked i s) : exec i s = .next (writes i s).tick := by
  rw [exec_eq_raiseOrComplete i s hb, h]
  rfl

/-- Everything executing an instruction can answer (R94): it faults, blocks, or completes. -/
theorem exec_cases (i : Instr) (s : State) :
    (∃ code info, faultCause i s = some (code, info) ∧ exec i s = .next (s.raise code info)) ∨
    (faultCause i s = none ∧ Blocked i s ∧ exec i s = .next s) ∨
    (faultCause i s = none ∧ ¬Blocked i s ∧ exec i s = .next (writes i s).tick) := by
  rcases h : faultCause i s with _ | ⟨code, info⟩
  · by_cases hb : Blocked i s
    · exact .inr (.inl ⟨rfl, hb, exec_of_blocked hb⟩)
    · exact .inr (.inr ⟨rfl, hb, exec_of_completes h hb⟩)
  · exact .inl ⟨code, info, rfl, exec_of_faultCause h⟩

theorem exec_answers (i : Instr) (s : State) : ∃ t, exec i s = .next t := by
  rcases exec_cases i s with ⟨_, _, _, he⟩ | ⟨_, _, he⟩ | ⟨_, _, he⟩ <;> exact ⟨_, he⟩

/-- The same of a state answered. -/
theorem exec_next_cases {i : Instr} {s t : State} (h : exec i s = .next t) :
    (∃ code info, faultCause i s = some (code, info) ∧ t = s.raise code info) ∨
    (faultCause i s = none ∧ Blocked i s ∧ t = s) ∨
    (faultCause i s = none ∧ ¬Blocked i s ∧ t = (writes i s).tick) := by
  have hinj : ∀ {u : State}, exec i s = .next u → t = u :=
    fun hu => Host.Outcome.next.inj (h.symm.trans hu)
  rcases exec_cases i s with ⟨code, info, hc, he⟩ | ⟨hc, hb, he⟩ | ⟨hc, hb, he⟩
  · exact .inl ⟨code, info, hc, hinj he⟩
  · exact .inr (.inl ⟨hc, hb, hinj he⟩)
  · exact .inr (.inr ⟨hc, hb, hinj he⟩)

/-- A part of the state that neither a fault nor the tick writes is left alone, or is what the
instruction wrote. -/
theorem exec_part_cases {α : Type} (part : State → α)
    (hraise : ∀ u code info, part (State.raise u code info) = part u)
    (htick : ∀ u, part (State.tick u) = part u) {i : Instr} {s t : State} (h : exec i s = .next t) :
    part t = part s ∨ part t = part (writes i s) := by
  rcases exec_next_cases h with ⟨code, info, -, rfl⟩ | ⟨-, -, rfl⟩ | ⟨-, -, rfl⟩
  · exact .inl (hraise s code info)
  · exact .inl rfl
  · exact .inr (htick _)

/-! ### What a step answers (R90 to R97) -/

theorem step_of_halted {s : State} (h : s.fault ≠ .none) : step s = .next s := if_neg h

theorem step_of_fetch_out {s : State} (hrun : s.fault = .none) (hpc : 4094 < s.pc.toNat) :
    step s = .next (s.enter.raise .pcOutOfBounds s.pc).inputTaken := by
  rcases step_cases s with ⟨hf, -⟩ | ⟨-, -, h⟩ | ⟨-, hin, -⟩
  · exact absurd hrun hf
  · rw [h, State.nextInput_eq]
  · exact absurd hin (Nat.not_le.2 hpc)

theorem step_of_exec {s t : State} {i : Instr} (hrun : s.fault = .none) (hpc : s.pc.toNat ≤ 4094)
    (hop : decode (s.opcodeAt s.pc.toNat) = i) (h : exec i s.enter = .next t) :
    step s = .next t.inputTaken := by
  rw [step_of_decode s hrun hpc hop, h, mapNext]

/-- Everything a step can answer: the machine is halted, its fetch is out of bounds, or it executes the
instruction at its `pc`. -/
theorem step_answer_cases (s : State) :
    (s.fault ≠ .none ∧ step s = .next s) ∨
    (s.fault = .none ∧ 4094 < s.pc.toNat ∧
      step s = .next (s.enter.raise .pcOutOfBounds s.pc).inputTaken) ∨
    (s.fault = .none ∧ s.pc.toNat ≤ 4094 ∧ ∃ u,
      exec (decode (s.opcodeAt s.pc.toNat)) s.enter = .next u ∧ step s = .next u.inputTaken) := by
  by_cases hrun : s.fault = .none
  · rcases Nat.lt_or_ge 4094 s.pc.toNat with hpc | hpc
    · exact .inr (.inl ⟨hrun, hpc, step_of_fetch_out hrun hpc⟩)
    · obtain ⟨u, hu⟩ := exec_answers (decode (s.opcodeAt s.pc.toNat)) s.enter
      exact .inr (.inr ⟨hrun, hpc, u, hu, step_of_exec hrun hpc rfl hu⟩)
  · exact .inl ⟨hrun, step_of_halted hrun⟩

/-- The same of a state answered. -/
theorem step_next_cases {s t : State} (h : step s = .next t) :
    (s.fault ≠ .none ∧ t = s) ∨
    (s.fault = .none ∧ 4094 < s.pc.toNat ∧ t = (s.enter.raise .pcOutOfBounds s.pc).inputTaken) ∨
    (s.fault = .none ∧ s.pc.toNat ≤ 4094 ∧ ∃ u,
      exec (decode (s.opcodeAt s.pc.toNat)) s.enter = .next u ∧ t = u.inputTaken) := by
  have hinj : ∀ {u : State}, step s = .next u → t = u :=
    fun hu => Host.Outcome.next.inj (h.symm.trans hu)
  rcases step_answer_cases s with ⟨hf, hs⟩ | ⟨hrun, hpc, hs⟩ | ⟨hrun, hpc, u, hu, hs⟩
  · exact .inl ⟨hf, hinj hs⟩
  · exact .inr (.inl ⟨hrun, hpc, hinj hs⟩)
  · exact .inr (.inr ⟨hrun, hpc, u, hu, hinj hs⟩)

/-- Settles O44: this is `step_of_decode`, `enter` being the clearing of `DRAW`. -/
theorem stepRunsDecodedInstruction : Obligations.StepRunsDecodedInstruction :=
  fun s _ hrun hpc hop => step_of_decode s hrun hpc hop

/-- Settles O45: each of the three cases of a step is a next state. -/
theorem stepAlwaysAnswers : Obligations.StepAlwaysAnswers := by
  intro s
  rcases step_answer_cases s with ⟨-, h⟩ | ⟨-, -, h⟩ | ⟨-, -, _, -, h⟩ <;> exact ⟨_, h⟩

/-- Settles O41: the fetch fault is the second case of a step. -/
theorem fetchOutOfBoundsFaults : Obligations.FetchOutOfBoundsFaults :=
  fun _ hrun hpc => step_of_fetch_out hrun hpc

/-- A run of one step more is a step, then the run. -/
theorem core_run_succ (n : Nat) {s t : State} (h : step s = .next t) :
    Sys2Proof.core.run (n + 1) s = Sys2Proof.core.run n t := by
  have hstep : Sys2Proof.core.step s = .next t := h
  refine (Host.Core.run.eq_2 Sys2Proof.core s n).trans ?_
  rw [hstep]

/-- Settles O43, by induction on the number of steps. -/
theorem haltedForever : Obligations.HaltedForever := by
  intro n s hf
  induction n with
  | zero => rfl
  | succ n ih => rw [core_run_succ n (step_of_halted hf), ih]

end Sys2Proof.Machine

namespace Sys2Proof.Machine

/-! ### Which instructions write which state -/

theorem writes_fault (i : Instr) (s : State) : (writes i s).fault = s.fault := by
  cases i with
  | ldVxMem x => rw [writes_ldVxMem]
  | _ => rfl

theorem writes_faultInfo (i : Instr) (s : State) : (writes i s).faultInfo = s.faultInfo := by
  cases i with
  | ldVxMem x => rw [writes_ldVxMem]
  | _ => rfl

theorem writes_dt_eq_or (i : Instr) (s : State) :
    (writes i s).dt = s.dt ∨ ∃ x, i = .ldDTVx x := by
  cases i with
  | ldDTVx x => exact .inr ⟨x, rfl⟩
  | ldVxMem x => exact .inl (by rw [writes_ldVxMem])
  | _ => exact .inl rfl

theorem writes_st_eq_or (i : Instr) (s : State) :
    (writes i s).st = s.st ∨ ∃ x, i = .ldSTVx x := by
  cases i with
  | ldSTVx x => exact .inr ⟨x, rfl⟩
  | ldVxMem x => exact .inl (by rw [writes_ldVxMem])
  | _ => exact .inl rfl

theorem writes_mem_eq_or (i : Instr) (s : State) :
    (writes i s).mem = s.mem ∨ (∃ x, i = .ldBVx x) ∨ ∃ x, i = .ldMemVx x := by
  cases i with
  | ldBVx x => exact .inr (.inl ⟨x, rfl⟩)
  | ldMemVx x => exact .inr (.inr ⟨x, rfl⟩)
  | ldVxMem x => exact .inl (by rw [writes_ldVxMem])
  | _ => exact .inl rfl

theorem writes_i_eq_or (i : Instr) (s : State) :
    (writes i s).i = s.i ∨ (∃ nnn, i = .ldI nnn) ∨
      ∃ x, i = .addIVx x ∨ i = .ldFVx x ∨ i = .ldMemVx x ∨ i = .ldVxMem x := by
  cases i with
  | ldI nnn => exact .inr (.inl ⟨nnn, rfl⟩)
  | addIVx x | ldFVx x | ldMemVx x | ldVxMem x => exact .inr (.inr ⟨x, by simp⟩)
  | _ => exact .inl rfl

theorem sameStack_of_eq {s t : State} (hsp : t.sp = s.sp) (hstack : t.stack = s.stack) :
    SameStack s t :=
  ⟨hsp, fun k => by simp only [State.stackEntry, hstack]⟩

theorem writes_sameStack_or (i : Instr) (s : State) :
    SameStack s (writes i s) ∨ i = .ret ∨ ∃ nnn, i = .call nnn := by
  cases i with
  | ret => exact .inr (.inl rfl)
  | call nnn => exact .inr (.inr ⟨nnn, rfl⟩)
  | ldVxMem x => rw [writes_ldVxMem]; exact .inl (sameStack_of_eq rfl rfl)
  | _ => exact .inl (sameStack_of_eq rfl rfl)

theorem setReg_flag_eq_or (s : State) (x : Nibble) (b : Byte) :
    (s.setReg x b).reg 15 = s.reg 15 ∨ x = 15 := by
  rw [State.reg_setReg]
  by_cases h : x = 15
  · exact .inr h
  · exact .inl (if_neg (Ne.symm h))

/-- The flag is written by the six flag writers, and by an instruction whose destination it is. The
block load stops before `V[15]`. -/
theorem writes_flag_eq_or (i : Instr) (s : State) : (writes i s).reg 15 = s.reg 15 ∨
    (∃ x y, i = .addReg x y ∨ i = .subReg x y ∨ i = .shr x y ∨ i = .subnReg x y ∨ i = .shl x y) ∨
    (∃ x y n, i = .drw x y n) ∨
    (∃ kk, i = .ldImm 15 kk ∨ i = .addImm 15 kk ∨ i = .rnd 15 kk) ∨
    (∃ y, i = .ldReg 15 y ∨ i = .orReg 15 y ∨ i = .andReg 15 y ∨ i = .xorReg 15 y) ∨
    i = .ldVxDT 15 ∨ i = .ldVxK 15 := by
  cases i with
  | addReg x y | subReg x y | shr x y | subnReg x y | shl x y => exact .inr (.inl ⟨x, y, by simp⟩)
  | drw x y n => exact .inr (.inr (.inl ⟨x, y, n, rfl⟩))
  | ldImm x kk | addImm x kk | rnd x kk =>
    exact (setReg_flag_eq_or s x _).imp_right fun h => .inr (.inr (.inl ⟨kk, by simp [h]⟩))
  | ldReg x y | orReg x y | andReg x y | xorReg x y =>
    exact (setReg_flag_eq_or s x _).imp_right fun h => .inr (.inr (.inr (.inl ⟨y, by simp [h]⟩)))
  | ldVxDT x | ldVxK x =>
    exact (setReg_flag_eq_or s x _).imp_right fun h => .inr (.inr (.inr (.inr (by simp [h]))))
  | ldVxMem x =>
    have hx : ¬(15 : Nibble).toNat < x.toNat := Nat.not_lt.2 (Nat.le_of_lt_succ x.isLt)
    exact .inl (by simp only [writes, State.reg_advance, State.reg_setIndex,
      State.reg_setRegsBelow, if_neg hx])
  | _ => exact .inl rfl

theorem faultCause_ret_eq_none {s : State} : faultCause .ret s = none ↔ s.sp ≠ 0 := by
  simp [faultCause]

theorem faultCause_call_eq_none {nnn : Addr12} {s : State} :
    faultCause (.call nnn) s = none ↔ s.sp ≠ 15 := by
  simp [faultCause]

/-- Below 15 the stack pointer goes up without wrapping. -/
theorem sp_succ_toNat {sp : Nibble} (h : sp ≠ 15) : (sp + 1).toNat = sp.toNat + 1 := by
  revert sp; decide

/-- Above 0 the stack pointer goes down without wrapping. -/
theorem sp_pred_toNat {sp : Nibble} (h : sp ≠ 0) : (sp - 1).toNat + 1 = sp.toNat := by
  revert sp; decide

/-- `CALL` raises the pointer before it writes, so no instruction writes `STACK[0]` (R31, R102). -/
theorem writes_stack_zero {i : Instr} {s : State} (h : faultCause i s = none) :
    (writes i s).stack[0] = s.stack[0] := by
  cases i with
  | call nnn =>
    have hne : (s.sp + 1).toNat ≠ 0 := by
      rw [sp_succ_toNat (faultCause_call_eq_none.1 h)]
      exact Nat.succ_ne_zero _
    exact Vector.getElem_set_ne (nibble_lt _) (by decide) hne
  | ldVxMem x => rw [writes_ldVxMem]
  | _ => rfl

/-- Settles O34: memory is written by neither a fault nor the tick, and `writes_mem_eq_or`. -/
theorem onlyStoresChangeMemory : Obligations.OnlyStoresChangeMemory := by
  intro i s t a hexec hne
  rcases exec_part_cases State.mem (fun _ _ _ => rfl) (fun _ => rfl) hexec with h | h
  · exact absurd (by rw [h]) hne
  · exact (writes_mem_eq_or i s).resolve_left fun hw => hne (by rw [h, hw])

/-- Settles O37: neither a fault nor the tick touches the stack, and of the instructions that complete
only `CALL` writes an entry, above `STACK[0]`. -/
theorem onlyCallAndRetTouchStack : Obligations.OnlyCallAndRetTouchStack := by
  intro i s t hexec
  rcases exec_next_cases hexec with ⟨code, info, -, rfl⟩ | ⟨-, -, rfl⟩ | ⟨hc, -, rfl⟩
  · exact ⟨rfl, fun h => absurd ⟨rfl, fun _ => rfl⟩ h⟩
  · exact ⟨rfl, fun h => absurd ⟨rfl, fun _ => rfl⟩ h⟩
  · exact ⟨writes_stack_zero hc, (writes_sameStack_or i s).resolve_left⟩

/-- Settles O38: `I` is written by neither a fault nor the tick, and `writes_i_eq_or`. -/
theorem onlyIndexInstructionsWriteIndex : Obligations.OnlyIndexInstructionsWriteIndex := by
  intro i s t hexec hne
  rcases exec_part_cases State.i (fun _ _ _ => rfl) (fun _ => rfl) hexec with h | h
  · exact absurd h hne
  · exact (writes_i_eq_or i s).resolve_left fun hw => hne (h.trans hw)

/-- Settles O39: `VF` is written by neither a fault nor the tick, and `writes_flag_eq_or`. -/
theorem flagWrittenOnlyByItsWriters : Obligations.FlagWrittenOnlyByItsWriters := by
  intro i s t hexec hne
  rcases exec_part_cases (State.reg · 15) (fun _ _ _ => rfl) (fun _ => rfl) hexec with h | h
  · exact absurd h hne
  · exact (writes_flag_eq_or i s).resolve_left fun hw => hne (h.trans hw)

/-- Settles O29: only a completed instruction ticks, and the tick starts from the old timer unless the
instruction is the one that sets it. -/
theorem timersTickWhenCompleted : Obligations.TimersTickWhenCompleted := by
  intro i s t hexec
  rcases exec_next_cases hexec with ⟨code, info, hc, rfl⟩ | ⟨-, hb, rfl⟩ | ⟨hc, hb, rfl⟩
  · exact ⟨fun _ => ⟨rfl, rfl⟩, fun h => by simp [hc] at h⟩
  · exact ⟨fun _ => ⟨rfl, rfl⟩, fun _ h => absurd hb h⟩
  · refine ⟨fun h => absurd h (by simpa [hc, Blocked] using hb), fun _ _ => ⟨fun hi => ?_, fun hi => ?_⟩⟩
    · rw [State.tick_dt, tickDown_toNat, (writes_dt_eq_or i s).resolve_right fun ⟨x, hx⟩ => hi x hx]
    · rw [State.tick_st, tickDown_toNat, (writes_st_eq_or i s).resolve_right fun ⟨x, hx⟩ => hi x hx]

/-! ### Faults (`60_exceptions.md` R181 to R183) -/

/-- Settles O40: `exec_cases`, and no instruction's writes are to the fault status. -/
theorem faultsExactlyAsTabulated : Obligations.FaultsExactlyAsTabulated := by
  intro i s
  split
  next code info hc => exact exec_of_faultCause hc
  next hc =>
    rcases exec_cases i s with ⟨code, info, hc', -⟩ | ⟨-, -, he⟩ | ⟨-, -, he⟩
    · rw [hc] at hc'
      cases hc'
    · exact ⟨s, he, rfl, rfl⟩
    · exact ⟨_, he, writes_fault i s, writes_faultInfo i s⟩

/-- Settles O33: the four instructions have the cause of `offEndCause`, each with its own count. -/
theorem dataOutOfBoundsFaults : Obligations.DataOutOfBoundsFaults := by
  intro s i count hi hc hb
  have hcause : faultCause i s = offEndCause s.i count := by
    rcases hi with ⟨x, y, n, rfl, rfl⟩ | ⟨⟨x, rfl⟩, rfl⟩ | ⟨x, rfl | rfl, rfl⟩ <;> rfl
  exact exec_of_faultCause (hcause.trans (offEndCause_eq_some hc hb))

/-- Settles O42: a step from a running to a halted state was a fault of the fetch or of an instruction,
and neither writes anything else. -/
theorem faultingStepIsPrecise : Obligations.FaultingStepIsPrecise := by
  intro s t hstep hrun hf
  rcases step_next_cases hstep with ⟨hs, -⟩ | ⟨-, -, rfl⟩ | ⟨-, -, u, hu, rfl⟩
  · exact absurd hrun hs
  · rfl
  · rcases exec_next_cases hu with ⟨code, info, -, rfl⟩ | ⟨-, -, rfl⟩ | ⟨-, -, rfl⟩
    · rfl
    · exact absurd hrun hf
    · exact absurd ((writes_fault _ s.enter).trans hrun) hf

/-- An instruction records neither that the machine runs nor the fault of a fetch (R182). -/
theorem faultCause_code {i : Instr} {s : State} {code : FaultCode} {info : Word}
    (h : faultCause i s = some (code, info)) : code ≠ .none ∧ code ≠ .pcOutOfBounds := by
  have hcode : ∀ {c : Prop} [Decidable c] {a : FaultCode × Word},
      (if c then some a else none) = some (code, info) → a.1 = code := fun h => by
    rw [Option.ite_none_right_eq_some, Option.some.injEq] at h
    rw [h.2]
  cases i with
  | ret | call _ | drw _ _ _ | ldBVx _ | ldMemVx _ | ldVxMem _ | skp _ | sknp _ =>
    rw [← hcode h]
    exact ⟨nofun, nofun⟩
  | _ => cases h

/-! ### The invariant (`10_state.md`, `60_exceptions.md`) -/

theorem State.inv_iff (s : State) : s.inv = true ↔
    s.mem.wf = true ∧ s.stack[0] = 0 ∧ s.faultRecorded = true ∧
      (s.fault = .none ∨ s.draw = false) := by
  simp [State.inv, and_assoc]

/-- Settles O53: the reset memory lists no cell, and the machine runs with nothing recorded. -/
theorem resetHasInvariant : Obligations.ResetHasInvariant :=
  (State.inv_iff _).2 ⟨rfl, rfl, rfl, .inl rfl⟩

theorem State.faultRecorded_iff_of_running {s : State} (hrun : s.fault = .none) :
    s.faultRecorded = true ↔ s.faultInfo = 0 := by
  simp [State.faultRecorded, hrun]

theorem State.faultRecorded_of_fetch_out {s : State} (hf : s.fault = .pcOutOfBounds)
    (hpc : 4094 < s.pc.toNat) (hinfo : s.faultInfo = s.pc) : s.faultRecorded = true := by
  simp [State.faultRecorded, hf, hpc, hinfo]

/-- A fault of the instruction at `pc` explains itself: to record it changes nothing that its cause is
read from. -/
theorem State.faultRecorded_raise {s : State} {code : FaultCode} {info : Word}
    (hpc : s.pc.toNat ≤ 4094)
    (h : faultCause (decode (s.opcodeAt s.pc.toNat)) s = some (code, info)) :
    (s.raise code info).faultRecorded = true := by
  have hcause : faultCause (decode (s.opcodeAt s.pc.toNat)) (s.raise code info) =
      some (code, info) := h
  obtain ⟨hrun, hfetch⟩ := faultCause_code h
  unfold State.faultRecorded
  split
  · exact absurd ‹_› hrun
  · exact absurd ‹_› hfetch
  all_goals
    rw [Bool.and_eq_true, decide_eq_true_iff, decide_eq_true_iff]
    exact ⟨hpc, hcause⟩

/-- The stores write inside the address space, which the bounds check has made sure of. -/
theorem writes_mem_wf {i : Instr} {s : State} (hwf : s.mem.wf = true) (h : faultCause i s = none) :
    (writes i s).mem.wf = true := by
  cases i with
  | ldBVx x =>
    exact Memory.wf_writeBytes hwf (.inr ((offEndCause_eq_none.1 h).resolve_left (by decide)))
  | ldMemVx x =>
    refine Memory.wf_writeBytes hwf ?_
    rw [← List.length_eq_zero_iff, State.length_regsBelow]
    exact offEndCause_eq_none.1 h
  | ldVxMem x => rw [writes_ldVxMem]; exact hwf
  | _ => exact hwf

/-- The invariant does not speak of the inputs. -/
theorem State.inv_inputTaken (s : State) : s.inputTaken.inv = s.inv := rfl

theorem State.inv_enter {s : State} (h : s.inv = true) : s.enter.inv = true := by
  rw [State.inv_iff] at h ⊢
  obtain ⟨hwf, hzero, hrec, -⟩ := h
  exact ⟨hwf, hzero, hrec, .inr rfl⟩

theorem State.inv_tick_writes {i : Instr} {s : State} (hrun : s.fault = .none) (h : s.inv = true)
    (hcause : faultCause i s = none) : (writes i s).tick.inv = true := by
  rw [State.inv_iff] at h ⊢
  obtain ⟨hwf, hzero, hrec, -⟩ := h
  have hrun' : (writes i s).tick.fault = .none := (writes_fault i s).trans hrun
  refine ⟨writes_mem_wf hwf hcause, (writes_stack_zero hcause).trans hzero, ?_, .inl hrun'⟩
  rw [State.faultRecorded_iff_of_running hrun']
  exact (writes_faultInfo i s).trans ((State.faultRecorded_iff_of_running hrun).1 hrec)

/-- Executing the instruction at `pc` keeps the invariant of a running machine with `DRAW` cleared. -/
theorem State.inv_exec {s t : State} (hrun : s.fault = .none) (hdraw : s.draw = false)
    (hpc : s.pc.toNat ≤ 4094) (h : s.inv = true)
    (hexec : exec (decode (s.opcodeAt s.pc.toNat)) s = .next t) : t.inv = true := by
  rcases exec_next_cases hexec with ⟨code, info, hcause, rfl⟩ | ⟨-, -, rfl⟩ | ⟨hcause, -, rfl⟩
  · obtain ⟨hwf, hzero, -, -⟩ := s.inv_iff.1 h
    exact (State.inv_iff _).2 ⟨hwf, hzero, State.faultRecorded_raise hpc hcause, .inr hdraw⟩
  · exact h
  · exact State.inv_tick_writes hrun h hcause

/-- Settles O54: by the cases of a step, a halted machine stays, a fetch out of bounds explains itself,
and an executed instruction keeps the invariant by `State.inv_exec`. -/
theorem stepKeepsInvariant : Obligations.StepKeepsInvariant := by
  intro s t hinv hstep
  rcases step_next_cases hstep with ⟨-, rfl⟩ | ⟨-, hpc, rfl⟩ | ⟨hrun, hpc, u, hu, rfl⟩
  · exact hinv
  · obtain ⟨hwf, hzero, -, -⟩ := s.inv_iff.1 hinv
    exact (State.inv_iff _).2
      ⟨hwf, hzero, State.faultRecorded_of_fetch_out rfl hpc rfl, .inr rfl⟩
  · rw [State.inv_inputTaken]
    exact State.inv_exec (s := s.enter) hrun rfl hpc (State.inv_enter hinv) hu

end Sys2Proof.Machine

namespace Sys2Proof.Machine

/-! ### The inputs (`10_state.md` R38, R39) -/

theorem keys_of_inputs {s : State} {inp : Input} {rest : List Input} (h : s.inputs = inp :: rest) :
    s.keys = inp.keys := by
  rw [State.keys, h]

theorem rnd_of_inputs {s : State} {inp : Input} {rest : List Input} (h : s.inputs = inp :: rest) :
    s.rnd = inp.rnd := by
  rw [State.rnd, h]

/-- The state with other inputs fixed. -/
def State.withInputs (l : List Input) (s : State) : State := { s with inputs := l }

section
variable (i : Instr) (s : State) (l : List Input)

/-- No cause to fault reads the inputs. -/
theorem faultCause_withInputs : faultCause i (s.withInputs l) = faultCause i s := rfl

/-- What is written depends on the inputs only through the byte of `RND` and the keys of `SKP`, `SKNP`
and `LD Vx, K`. -/
theorem writes_withInputs (hrnd : (s.withInputs l).rnd = s.rnd ∨ ∀ x kk, i ≠ .rnd x kk)
    (hkeys : (s.withInputs l).keys = s.keys ∨ ∀ x, i ≠ .skp x ∧ i ≠ .sknp x ∧ i ≠ .ldVxK x) :
    writes i (s.withInputs l) = (writes i s).withInputs l := by
  cases i with
  | rnd x kk => rw [writes, hrnd.resolve_right fun h => h x kk rfl]; rfl
  | skp x => rw [writes, hkeys.resolve_right fun h => (h x).1 rfl]; rfl
  | sknp x => rw [writes, hkeys.resolve_right fun h => (h x).2.1 rfl]; rfl
  | ldVxK x => rw [writes, hkeys.resolve_right fun h => (h x).2.2 rfl]; rfl
  | _ => rfl

theorem exec_withInputs (hrnd : (s.withInputs l).rnd = s.rnd ∨ ∀ x kk, i ≠ .rnd x kk)
    (hkeys : (s.withInputs l).keys = s.keys ∨ ∀ x, i ≠ .skp x ∧ i ≠ .sknp x ∧ i ≠ .ldVxK x) :
    exec i (s.withInputs l) = mapNext (State.withInputs l) (exec i s) := by
  have hblocked : Blocked i (s.withInputs l) ↔ Blocked i s := by
    refine and_congr_right fun ⟨x, hx⟩ => ?_
    rw [hkeys.resolve_right fun h => (h x).2.2 hx]
  have hcause := faultCause_withInputs i s l
  rcases exec_cases i s with ⟨code, info, hc, he⟩ | ⟨-, hb, he⟩ | ⟨hc, hb, he⟩
  · rw [he, exec_of_faultCause (hcause.trans hc)]
    rfl
  · rw [he, exec_of_blocked (hblocked.2 hb)]
    rfl
  · rw [he, exec_of_completes (hcause.trans hc) (hblocked.not.2 hb),
      writes_withInputs i s l hrnd hkeys]
    rfl

end

/-- Settles O49: `exec_withInputs` at two inputs that agree in the keys, and at two that agree in the
random byte. -/
theorem inputsReachOnlyTheirReaders : Obligations.InputsReachOnlyTheirReaders := by
  intro i s k k' r r' rest
  have hexec := exec_withInputs i (s.withInputs (⟨k, r⟩ :: rest))
  exact ⟨fun h => hexec (⟨k, r'⟩ :: rest) (.inr h) (.inl rfl),
    fun h => hexec (⟨k', r⟩ :: rest) (.inl rfl) (.inr h)⟩

/-! ### Awaiting input (R34) -/

theorem State.fetch_eq_some {s : State} (hpc : s.pc.toNat ≤ 4094) :
    s.fetch = some (s.opcodeAt s.pc.toNat) :=
  (if_pos hpc).trans (congrArg some (s.opcodeAt_eq _).symm)

theorem State.fetch_eq_none {s : State} (hpc : ¬s.pc.toNat ≤ 4094) : s.fetch = none := if_neg hpc

/-- Awaiting input, by the instruction at `pc`. -/
theorem State.awaitingInput_iff (s : State) : s.awaitingInput = true ↔
    s.fault = .none ∧ s.pc.toNat ≤ 4094 ∧ (∃ x, decode (s.opcodeAt s.pc.toNat) = .ldVxK x) ∧
      s.keys = 0 := by
  unfold State.awaitingInput
  rw [Bool.and_eq_true, decide_eq_true_iff]
  refine and_congr_right fun _ => ?_
  by_cases hpc : s.pc.toNat ≤ 4094
  · simp only [State.fetch_eq_some hpc, hpc, true_and]
    cases decode (s.opcodeAt s.pc.toNat) with
    | ldVxK x => simp
    | _ => simp
  · simp [State.fetch_eq_none hpc, hpc]

/-- Settles O48: the instruction at `pc` is `LD Vx, K` exactly when the word there is FX0A. -/
theorem awaitingInputExactly : Obligations.AwaitingInputExactly := by
  intro s
  rw [s.awaitingInput_iff, decode_eq_ldVxK_iff]

/-! ### Key input (`46_input.md` R150 to R152) -/

/-- The skip of `SKNP`, on a key that is up. -/
theorem State.pc_skipIf_not (s : State) (c : Bool) :
    (s.skipIf !c).pc = if c then s.pc + 2 else s.pc + 4 := by
  cases c <;> rfl

/-- Settles O23: both have a cause to fault exactly above 15, and otherwise write `pc` alone. -/
theorem keySkipsTestLevel : Obligations.KeySkipsTestLevel := by
  intro s x
  constructor
  · rintro hout i (rfl | rfl) <;> exact exec_of_faultCause (if_pos hout)
  · intro hin
    have hcause : badKeyCause (s.reg x) = none := if_neg (Nat.not_lt.2 hin)
    constructor
    · exact ⟨_, exec_of_completes (i := .skp x) hcause nofun, rfl, rfl, fun _ => rfl,
        onlyRegsIndexPc_tick s _ _ _⟩
    · exact ⟨_, exec_of_completes (i := .sknp x) hcause nofun, s.pc_skipIf_not _, rfl,
        fun _ => rfl, onlyRegsIndexPc_tick s _ _ _⟩

/-- Settles O24: the scan finds the greatest key down, unless none is. -/
theorem keyWaitStoresGreatestKey : Obligations.KeyWaitStoresGreatestKey := by
  intro s x
  refine ⟨exec_ldVxK_of_no_key x s, fun hkeys => ?_⟩
  rcases scanKeys_cases s.keys with ⟨-, hnone⟩ | ⟨b, hscan, hlt, hdown, hgreatest⟩
  · exact absurd hnone hkeys
  · refine ⟨_, b.toNat, exec_of_completes (i := .ldVxK x) rfl fun hb => hkeys hb.2, hlt, hdown,
      fun j hbj hj => hgreatest j hj hbj, fun r => ?_, rfl, rfl, onlyRegsIndexPc_tick s _ _ _⟩
    simp only [writes, hscan, Option.getD_some, State.reg_tick, State.reg_advance,
      State.reg_setReg, BitVec.ofNat_toNat, BitVec.setWidth_eq]

/-- A machine that waits for a key goes through any number of inputs with no key down; only `DRAW` and
the inputs change. -/
theorem run_quiet {x : Nibble} (quiets later : List Input) (hquiet : ∀ q ∈ quiets, q.keys = 0)
    {s : State} (hrun : s.fault = .none) (hpc : s.pc.toNat ≤ 4094)
    (hop : decode (s.opcodeAt s.pc.toNat) = .ldVxK x) (hin : s.inputs = quiets ++ later) :
    ∃ draw inputNo, Sys2Proof.core.run quiets.length s =
      .next { s with draw := draw, inputs := later, inputNo := inputNo } := by
  induction quiets generalizing s with
  | nil =>
    obtain rfl : s.inputs = later := hin
    exact ⟨s.draw, s.inputNo, rfl⟩
  | cons q quiets ih =>
    have hkeys : s.keys = 0 := (keys_of_inputs hin).trans (hquiet q List.mem_cons_self)
    have hstep := step_of_exec hrun hpc hop (exec_ldVxK_of_no_key x s.enter hkeys)
    have hin' : s.enter.inputTaken.inputs = quiets ++ later := congrArg (List.drop 1) hin
    obtain ⟨draw, inputNo, h⟩ := ih (fun p hp => hquiet p (List.mem_cons_of_mem q hp))
      (s := s.enter.inputTaken) hrun hpc hop hin'
    exact ⟨draw, inputNo, (core_run_succ _ hstep).trans h⟩

/-- The step of a machine that waits for a key and finds one down. -/
theorem step_of_key_down {s : State} {x : Nibble} (hrun : s.fault = .none)
    (hpc : s.pc.toNat ≤ 4094) (hop : decode (s.opcodeAt s.pc.toNat) = .ldVxK x)
    (hkeys : s.keys ≠ 0) :
    ∃ t, step s = .next t ∧ t.pc = s.pc + 2 ∧ Ticked s t ∧ (t.reg x).toNat < 16 ∧
      s.keys.getLsbD (t.reg x).toNat = true := by
  obtain ⟨t, k, ht, hk, hdown, -, hreg, htpc, -, -, -, -, -, -, htick⟩ :=
    (keyWaitStoresGreatestKey s.enter x).2 hkeys
  have hkx : (t.reg x).toNat = k := by
    rw [hreg, if_pos rfl, BitVec.toNat_ofNat]
    omega
  exact ⟨t.inputTaken, step_of_exec hrun hpc hop ht, htpc, htick, hkx.symm ▸ hk, hkx.symm ▸ hdown⟩

/-- Settles O25: `run_quiet`, then the step with the key down. -/
theorem keyWaitEndsWithFirstKey : Obligations.KeyWaitEndsWithFirstKey := by
  intro s x quiets press rest hrun hpc hop hquiet hpress hin
  obtain ⟨draw, inputNo, hw⟩ := run_quiet quiets (press :: rest) hquiet hrun hpc hop hin
  obtain ⟨t, ht⟩ := step_of_key_down
    (s := { s with draw := draw, inputs := press :: rest, inputNo := inputNo }) hrun hpc hop hpress
  exact ⟨_, t, hw, rfl, rfl, rfl, fun _ => rfl, ht⟩

end Sys2Proof.Machine

namespace Sys2Proof.Machine

/-! ### Loads, arithmetic, logic (`42_load_alu.md` R113 to R121, `44_random.md` R135) -/

/-- `loadReg_eq_next` with the destination and the other registers apart. -/
theorem loadReg_eq_next_apart (x : Nibble) (b : Byte) (s : State) :
    ∃ t, loadReg x b s = .next t ∧ t.reg x = b ∧ (∀ r, r ≠ x → t.reg r = s.reg r) ∧
      t.pc = s.pc + 2 ∧ t.i = s.i ∧ OnlyRegsIndexPc s t := by
  obtain ⟨t, ht, hreg, hframe⟩ := loadReg_eq_next x b s
  exact ⟨t, ht, (hreg x).trans (if_pos rfl), fun r hr => (hreg r).trans (if_neg hr), hframe⟩

/-- The shared end of the instructions with a flag: `V[x]` has the result, and `VF` the flag unless it
is the destination (R110). -/
theorem loadRegFlag_eq_next (x : Nibble) (c : Bool) (b : Byte) (s : State) :
    ∃ t, loadRegFlag x c b s = .next t ∧ t.reg x = b ∧
      (∀ r, r ≠ x → t.reg r = if r = 15 then flagByte c else s.reg r) ∧
      t.pc = s.pc + 2 ∧ t.i = s.i ∧ OnlyRegsIndexPc s t :=
  ⟨_, rfl, (s.reg_setFlagThenReg c x x b).trans (if_pos rfl),
    fun r hr => (s.reg_setFlagThenReg c x r b).trans (if_neg hr), rfl, rfl,
    onlyRegsIndexPc_tick s _ _ _⟩

theorem flagByte_decide (p : Prop) [Decidable p] : flagByte (decide p) = if p then 1 else 0 := by
  simp [flagByte]

/-- A bit stored as a flag is that binary digit of the number. -/
theorem flagByte_getLsbD (a : Byte) (k : Nat) :
    flagByte (a.getLsbD k) = BitVec.ofNat 8 (a.toNat / 2 ^ k % 2) := by
  rw [← BitVec.testBit_toNat, Nat.testBit_eq_decide_div_mod_eq, flagByte_decide]
  rcases Nat.mod_two_eq_zero_or_one (a.toNat / 2 ^ k) with h | h
  · rw [h]; rfl
  · rw [h]; rfl

theorem byte_sub_toNat (a b : Byte) : (a - b).toNat = (a.toNat + 256 - b.toNat) % 256 := by
  have := b.isLt
  rw [BitVec.toNat_sub]
  omega

/-- Settles O15: all four give `V[x]` a value, the last three bit by bit. -/
theorem copyAndLogicSetNoFlag : Obligations.CopyAndLogicSetNoFlag := by
  intro s x y
  refine ⟨loadReg_eq_next_apart x (s.reg y) s, ?_, ?_, ?_⟩
  · obtain ⟨t, ht, hx, hframe⟩ := loadReg_eq_next_apart x (s.reg x ||| s.reg y) s
    exact ⟨t, ht, fun k => by rw [hx, BitVec.getLsbD_or], hframe⟩
  · obtain ⟨t, ht, hx, hframe⟩ := loadReg_eq_next_apart x (s.reg x &&& s.reg y) s
    exact ⟨t, ht, fun k => by rw [hx, BitVec.getLsbD_and], hframe⟩
  · obtain ⟨t, ht, hx, hframe⟩ := loadReg_eq_next_apart x (s.reg x ^^^ s.reg y) s
    exact ⟨t, ht, fun k => by rw [hx, BitVec.getLsbD_xor], hframe⟩

/-- Settles O16: the sum as a byte is the sum modulo 256, and the flag is the carry. -/
theorem addSetsCarry : Obligations.AddSetsCarry := by
  intro s x y
  obtain ⟨t, ht, hx, hr, hframe⟩ :=
    loadRegFlag_eq_next x (carryOut (s.reg x) (s.reg y)) (s.reg x + s.reg y) s
  rw [carryOut, flagByte_decide] at hr
  exact ⟨t, ht, by rw [hx, BitVec.toNat_add], hr, hframe⟩

/-- The two subtractions, for any two bytes (R118, R120). -/
theorem loadRegFlag_sub (x : Nibble) (a b : Byte) (s : State) :
    ∃ t, loadRegFlag x (noBorrow a b) (a - b) s = .next t ∧
      (t.reg x).toNat = (a.toNat + 256 - b.toNat) % 256 ∧
      (∀ r, r ≠ x → t.reg r = if r = 15 then (if b.toNat ≤ a.toNat then 1 else 0) else s.reg r) ∧
      t.pc = s.pc + 2 ∧ t.i = s.i ∧ OnlyRegsIndexPc s t := by
  obtain ⟨t, ht, hx, hr, hframe⟩ := loadRegFlag_eq_next x (noBorrow a b) (a - b) s
  rw [noBorrow, flagByte_decide] at hr
  exact ⟨t, ht, by rw [hx, byte_sub_toNat], hr, hframe⟩

/-- Settles O17: the same subtraction with the operands in either order. -/
theorem subtractionsSetNotBorrow : Obligations.SubtractionsSetNotBorrow :=
  fun s x y => ⟨loadRegFlag_sub x (s.reg x) (s.reg y) s, loadRegFlag_sub x (s.reg y) (s.reg x) s⟩

/-- Settles O18: the bits shifted out are the lowest and the highest binary digit. -/
theorem shiftsInPlace : Obligations.ShiftsInPlace := by
  intro s x y
  constructor
  · obtain ⟨t, ht, hx, hr, hframe⟩ :=
      loadRegFlag_eq_next x (shiftedOutRight (s.reg x)) (s.reg x >>> 1) s
    rw [shiftedOutRight, flagByte_getLsbD, Nat.pow_zero, Nat.div_one] at hr
    exact ⟨t, ht, by rw [hx, BitVec.toNat_ushiftRight, Nat.shiftRight_one], hr, hframe⟩
  · obtain ⟨t, ht, hx, hr, hframe⟩ :=
      loadRegFlag_eq_next x (shiftedOutLeft (s.reg x)) (s.reg x <<< 1) s
    have hlt := (s.reg x).isLt
    have hbit : (s.reg x).toNat / 2 ^ 7 % 2 = (s.reg x).toNat / 128 := by omega
    rw [shiftedOutLeft, flagByte_getLsbD, hbit] at hr
    exact ⟨t, ht, by rw [hx, BitVec.toNat_shiftLeft, Nat.shiftLeft_eq, Nat.pow_one], hr, hframe⟩

/-- Settles O22: the random byte of the step is that of the first input, where one is fixed. -/
theorem rndMasksRandomByte : Obligations.RndMasksRandomByte := by
  intro s x kk
  obtain ⟨t, ht, hreg, hframe⟩ := loadReg_eq_next x (s.rnd &&& kk) s
  refine ⟨t, ht, hreg, fun inp rest hin => ?_, hframe⟩
  rw [hreg, if_pos rfl, rnd_of_inputs hin]

/-! ### Timers (`47_timers.md` R155 to R157) -/

/-- Settles O26: `V[x]` is given the timer of the state before the tick. -/
theorem readDelayTimer : Obligations.ReadDelayTimer :=
  fun s x => loadReg_eq_next x s.dt s

/-- Settles O27: the tick follows the write of `DT`. -/
theorem setDelayTimer : Obligations.SetDelayTimer :=
  fun s x => ⟨_, rfl, tickDown_toNat (s.reg x), tickDown_toNat s.st, rfl, rfl, fun _ => rfl,
    fun _ => rfl, ⟨rfl, fun _ => rfl⟩, ⟨fun _ => rfl, rfl⟩, ⟨rfl, rfl⟩, ⟨rfl, rfl⟩⟩

/-- Settles O28: the tick follows the write of `ST`. -/
theorem setSoundTimer : Obligations.SetSoundTimer :=
  fun s x => ⟨_, rfl, tickDown_toNat (s.reg x), tickDown_toNat s.dt, rfl, rfl, fun _ => rfl,
    fun _ => rfl, ⟨rfl, fun _ => rfl⟩, ⟨fun _ => rfl, rfl⟩, ⟨rfl, rfl⟩, ⟨rfl, rfl⟩⟩

/-! ### The index register (`43_index.md` R131, R132) -/

theorem zextByte_toNat (b : Byte) : (zextByte b).toNat = b.toNat :=
  BitVec.toNat_setWidth_of_le (by decide)

/-- Settles O20: the sum of words is the sum modulo 65536. -/
theorem addToIndexWraps : Obligations.AddToIndexWraps := by
  intro s x
  obtain ⟨t, ht, hi, hframe⟩ := loadIndex_eq_next (s.i + zextByte (s.reg x)) s
  exact ⟨t, ht, by rw [hi, BitVec.toNat_add, zextByte_toNat], hframe⟩

/-- Five times a byte fits in a word. -/
theorem glyphAddress_toNat (b : Byte) : (glyphAddress b).toNat = b.toNat * 5 := by
  have hfit : b.toNat * 5 < 2 ^ 16 := by have := b.isLt; omega
  rw [glyphAddress, BitVec.toNat_mul, zextByte_toNat]
  exact Nat.mod_eq_of_lt hfit

/-- Settles O21: `I` is given the glyph's address, which does not wrap. -/
theorem loadGlyphAddress : Obligations.LoadGlyphAddress := by
  intro s x
  obtain ⟨t, ht, hi, hframe⟩ := loadIndex_eq_next (glyphAddress (s.reg x)) s
  exact ⟨t, ht, by rw [hi, glyphAddress_toNat], hframe⟩

/-! ### Control flow (`41_control_flow.md` R100 to R107, `49_unrecognised.md` R170) -/

/-- Settles O36: the `pc` alone is written. -/
theorem nopOnlyAdvances : Obligations.NopOnlyAdvances :=
  fun s _ => complete_setPc s (s.pc + 2)

/-- Settles O11: the sum of a 12-bit address and a byte fits in a word. -/
theorem jpV0AddsRegister : Obligations.JpV0AddsRegister := by
  intro s nnn
  obtain ⟨t, ht, hpc, hframe⟩ := complete_setPc s (zextAddr nnn + zextByte (s.reg 0))
  have hfit : nnn.toNat + (s.reg 0).toNat < 2 ^ 16 := by
    have := nnn.isLt
    have := (s.reg 0).isLt
    omega
  refine ⟨t, ht, ?_, hframe⟩
  rw [hpc, BitVec.toNat_add, zextAddr_toNat, zextByte_toNat, Nat.mod_eq_of_lt hfit]

/-- Settles O6: with `SP` = 0 there is a cause to fault; otherwise the pointer goes down and no entry
is written. -/
theorem retResumesAfterCall : Obligations.RetResumesAfterCall :=
  fun s => ⟨fun h => exec_of_faultCause (if_pos h), fun h =>
    ⟨_, exec_of_completes (faultCause_ret_eq_none.2 h) nofun, rfl, sp_pred_toNat h, fun _ => rfl,
      rfl, fun _ => rfl, fun _ => rfl, ⟨fun _ => rfl, rfl⟩, ⟨rfl, rfl⟩, ⟨rfl, rfl⟩, ticked_tick s⟩⟩

/-- A push writes the entry at the raised pointer. -/
theorem State.stackEntry_push (s : State) (a : Word) (k : Nibble) :
    (s.push a).stackEntry k = if k = s.sp + 1 then a else s.stackEntry k := by
  simp only [State.stackEntry, State.push_stack, Vector.getElem_set, BitVec.toNat_inj, eq_comm]

/-- Settles O8: with `SP` = 15 there is a cause to fault; otherwise the old `pc` is pushed. -/
theorem callPushesOwnAddress : Obligations.CallPushesOwnAddress :=
  fun s nnn => ⟨fun h => exec_of_faultCause (if_pos h), fun h =>
    ⟨_, exec_of_completes (faultCause_call_eq_none.2 h) nofun, zextAddr_toNat nnn, sp_succ_toNat h,
      s.stackEntry_push s.pc, rfl, fun _ => rfl, fun _ => rfl, ⟨fun _ => rfl, rfl⟩, ⟨rfl, rfl⟩,
      ⟨rfl, rfl⟩, ticked_tick s⟩⟩

theorem State.opcodeAt_congr {s t : State} (h : SameMemory s t) (a : Nat) :
    t.opcodeAt a = s.opcodeAt a := by
  rw [State.opcodeAt, State.opcodeAt, h a, h (a + 1)]

/-- Settles O12: the entry `RET` reads is the one `CALL` has written, and neither writes memory or a
register. -/
theorem callThenRetReturns : Obligations.CallThenRetReturns := by
  intro s nnn hrun hsp hpc hnnn hcall hret
  obtain ⟨t, ht, htpc, htsp, htstack, -, htregs, htmem, -, ⟨htf, -⟩, -⟩ :=
    (callPushesOwnAddress s.enter nnn).2 hsp
  have htop : t.stackEntry t.sp = s.pc := (htstack t.sp).trans (if_pos rfl)
  have htne : t.sp ≠ 0 := by
    intro h
    rw [h] at htsp
    cases htsp
  have htret : decode (t.opcodeAt t.pc.toNat) = .ret := by
    rw [htpc, State.opcodeAt_congr htmem]
    exact hret
  obtain ⟨u, hu, hupc, husp, -, -, huregs, -, -, ⟨huf, -⟩, -⟩ :=
    (retResumesAfterCall t.inputTaken.enter).2 htne
  exact ⟨t.inputTaken, u.inputTaken, step_of_exec hrun hpc hcall ht,
    step_of_exec (htf.trans hrun) (htpc ▸ hnnn) htret hu, hupc.trans (congrArg (· + 2) htop),
    BitVec.eq_of_toNat_eq (Nat.succ_injective (husp.trans htsp)),
    fun r => (huregs r).trans (htregs r), huf.trans (htf.trans hrun)⟩

end Sys2Proof.Machine

namespace Sys2Proof.Machine

/-! ### Memory block transfers (`48_memory_block.md` R160 to R162) -/

/-- A count of registers or rows that stays inside memory. -/
theorem offEndCause_nibble {base : Word} {n : Nibble} (h : n = 0 ∨ base.toNat + n.toNat ≤ 4096) :
    offEndCause base n.toNat = none :=
  offEndCause_eq_none.2 (h.imp_left fun h0 => by rw [h0]; rfl)

theorem getD_decimalDigits (b d : Byte) (k : Nat) : ((decimalDigits b).getD k d).toNat =
    if k = 0 then b.toNat / 100 else if k = 1 then b.toNat / 10 % 10
    else if k = 2 then b.toNat % 10 else d.toNat := by
  have := b.isLt
  rcases k with _ | _ | _ | k
  all_goals simp [decimalDigits]
  all_goals omega

/-- Settles O30: the three digits are stored from `I` on, after the bounds check. -/
theorem storeDecimalDigits : Obligations.StoreDecimalDigits := by
  intro s x hwf hi
  have hfit : s.i.toNat + 3 ≤ 4096 := by omega
  refine ⟨_, exec_of_completes (i := .ldBVx x) (offEndCause_eq_none.2 (.inr hfit)) nofun,
    fun a => ?_, rfl, rfl, fun _ => rfl, ⟨rfl, fun _ => rfl⟩, ⟨fun _ => rfl, rfl⟩, ⟨rfl, rfl⟩,
    ⟨rfl, rfl⟩, ticked_tick s⟩
  have hread := Memory.read_writeBytes (bs := decimalDigits (s.reg x)) hwf (.inr hfit) a
  refine (congrArg BitVec.toNat hread).trans ?_
  by_cases ha : s.i.toNat ≤ a
  · obtain ⟨k, rfl⟩ := Nat.exists_eq_add_of_le ha
    rw [if_pos ha, Nat.add_sub_cancel_left, getD_decimalDigits]
    simp
  · rw [if_neg ha, if_neg (by omega), if_neg (by omega), if_neg (by omega)]

theorem indexAfter_toNat (s : State) (x : Nibble) :
    (indexAfter s x.toNat).toNat = (s.i.toNat + x.toNat + 1) % 65536 := by
  have := x.isLt
  rw [indexAfter, BitVec.toNat_add, BitVec.toNat_ofNat]
  omega

/-- Every byte after the registers below `x` have been stored from `I` on. -/
theorem read_writeBytes_regsBelow {s : State} {x : Nibble} (hwf : s.mem.wf = true)
    (hfit : x = 0 ∨ s.i.toNat + x.toNat ≤ 4096) (a : Nat) :
    Memory.read (Memory.writeBytes s.mem s.i.toNat (s.regsBelow x.toNat)) a =
      if s.i.toNat ≤ a ∧ a < s.i.toNat + x.toNat then s.reg (BitVec.ofNat 4 (a - s.i.toNat))
      else s.mem.read a := by
  have hx := x.isLt
  have hlen := s.length_regsBelow x
  have hb : s.regsBelow x.toNat = [] ∨
      s.i.toNat + (s.regsBelow x.toNat).length ≤ Config.memSize := by
    rw [← List.length_eq_zero_iff, hlen]
    exact hfit.imp_left fun h0 => by rw [h0]; rfl
  rw [Memory.read_writeBytes hwf hb]
  by_cases ha : s.i.toNat ≤ a
  · obtain ⟨k, rfl⟩ := Nat.exists_eq_add_of_le ha
    rw [if_pos ha, Nat.add_sub_cancel_left]
    by_cases hk : k < x.toNat
    · have hkk : (BitVec.ofNat 4 k).toNat = k := by rw [BitVec.toNat_ofNat]; omega
      rw [if_pos ⟨ha, by omega⟩]
      conv_lhs => rw [← hkk]
      exact s.getD_regsBelow x _ _ (by omega)
    · rw [if_neg (by omega), List.getD_eq_default _ _ (by omega)]
  · rw [if_neg ha, if_neg (by omega)]

/-- Settles O31: `read_writeBytes_regsBelow` after the bounds check. -/
theorem storeRegistersBelowX : Obligations.StoreRegistersBelowX :=
  fun s x hwf hfit => ⟨_, exec_of_completes (i := .ldMemVx x) (offEndCause_nibble hfit) nofun,
    read_writeBytes_regsBelow hwf hfit, indexAfter_toNat s x, rfl, fun _ => rfl,
    ⟨rfl, fun _ => rfl⟩, ⟨fun _ => rfl, rfl⟩, ⟨rfl, rfl⟩, ⟨rfl, rfl⟩, ticked_tick s⟩

/-- Settles O32: the registers below `x` are given the bytes read from `I` on, after the bounds
check. -/
theorem loadRegistersBelowX : Obligations.LoadRegistersBelowX := by
  intro s x hfit
  have hexec := exec_of_completes (i := .ldVxMem x) (offEndCause_nibble hfit) nofun
  rw [writes_ldVxMem] at hexec
  refine ⟨_, hexec, fun r => (s.reg_setRegsBelow ..).trans ?_, indexAfter_toNat s x, rfl,
    onlyRegsIndexPc_tick s _ _ _⟩
  by_cases hr : r.toNat < x.toNat
  · rw [if_pos hr, if_pos hr, Memory.getD_readBytes _ _ _ _ _ hr]
  · rw [if_neg hr, if_neg hr]

/-- Settles O35: the two bytes the next fetch reads are the first two registers stored. -/
theorem storeReachesNextFetch : Obligations.StoreReachesNextFetch := by
  intro s x hwf hrun hpc hx hi hop
  have hipc : s.i.toNat = s.pc.toNat + 2 := by
    rw [hi, BitVec.toNat_add]
    exact Nat.mod_eq_of_lt (by change s.pc.toNat + 2 < 65536; omega)
  obtain ⟨t, ht, hread, -, htpc, -, -, -, ⟨htf, -⟩, -⟩ :=
    storeRegistersBelowX s.enter x hwf (.inr (by rw [State.enter_i]; omega))
  have hti : t.pc.toNat = s.i.toNat := by rw [htpc, hi]; rfl
  have hhigh : t.mem.read s.i.toNat = s.reg 0 := by
    rw [hread, State.enter_i, if_pos (by omega), Nat.sub_self]
    rfl
  have hlow : t.mem.read (s.i.toNat + 1) = s.reg 1 := by
    rw [hread, State.enter_i, if_pos (by omega), Nat.add_sub_cancel_left]
    rfl
  have hword : t.opcodeAt t.pc.toNat =
      BitVec.ofNat 16 ((s.reg 0).toNat * 256 + (s.reg 1).toNat) := by
    rw [State.opcodeAt, hti, hhigh, hlow]
  exact ⟨t.inputTaken, step_of_exec hrun (by omega) hop ht, htpc,
    step_of_decode t.inputTaken (htf.trans hrun) (by change t.pc.toNat ≤ 4094; omega)
      (congrArg decode hword)⟩

end Sys2Proof.Machine

namespace Sys2Proof.Machine

/-! ### Sprites (`45_display.md` R141) -/

/-- The cells `DRW` flips are those a set sprite pixel covers. -/
theorem mem_spritePixels_iff_covers (s : State) (x y n : Nibble) (p : Pixel) :
    p ∈ spritePixels s.mem s.i.toNat (s.reg y) (s.reg x) n.toNat ↔ SpriteCovers s x y n p :=
  mem_spritePixels

theorem pixel_drawSprite (s : State) (x y n : Nibble) (p : Pixel) :
    (drawSprite x y n s).1.pixel p = true ↔ ¬(s.fb.pixel p = true ↔ SpriteCovers s x y n p) := by
  rw [drawSprite, (blit_spec _ _ _ (nodup_spritePixels ..)).1, ← mem_spritePixels_iff_covers]
  cases s.fb.pixel p <;> simp

theorem collision_drawSprite (s : State) (x y n : Nibble) :
    (drawSprite x y n s).2 = true ↔ ∃ p, SpriteCovers s x y n p ∧ s.fb.pixel p = true := by
  rw [drawSprite, (blit_spec _ _ _ (nodup_spritePixels ..)).2, Bool.false_or, List.any_eq_true]
  exact exists_congr fun p => and_congr_left' (mem_spritePixels_iff_covers s x y n p)

theorem flagByte_cases (c : Bool) : flagByte c = 1 ∧ c = true ∨ flagByte c = 0 ∧ ¬c = true := by
  cases c <;> simp [flagByte]

/-- Settles O2: the cells drawn are distinct, so each is flipped once, and the flag is the collision. -/
theorem drwFlipsCoveredCells : Obligations.DrwFlipsCoveredCells := by
  intro s x y n hfit
  refine ⟨_, exec_of_completes (i := .drw x y n) (offEndCause_nibble hfit) nofun,
    pixel_drawSprite s x y n, ?_, fun r hr => (State.reg_setFlag ..).trans (if_neg hr), rfl, rfl, rfl,
    fun _ => rfl, ⟨rfl, fun _ => rfl⟩, ⟨rfl, rfl⟩, ⟨rfl, rfl⟩, ticked_tick s⟩
  have hflag : (writes (.drw x y n) s).tick.reg 15 = flagByte (drawSprite x y n s).2 :=
    (State.reg_setFlag ..).trans (if_pos rfl)
  rw [← collision_drawSprite, hflag]
  exact flagByte_cases (drawSprite x y n s).2

/-- A sprite covers the same cells in two states that agree on all it is read from. -/
theorem spriteCovers_congr {s t : State} {x y n : Nibble} (hmem : SameMemory s t) (hi : t.i = s.i)
    (hx : t.reg x = s.reg x) (hy : t.reg y = s.reg y) (p : Pixel) :
    SpriteCovers t x y n p ↔ SpriteCovers s x y n p := by
  simp only [SpriteCovers, hi, hx, hy, hmem _]

/-- Settles O3: the second draw covers the same cells, so it flips each of them back, and it finds on
what the first has turned on. -/
theorem drwTwiceRestores : Obligations.DrwTwiceRestores := by
  intro s x y n hx hy hfit
  obtain ⟨t, ht, hcells, -, hreg, -, -, hi, hmem, -⟩ := drwFlipsCoveredCells s x y n hfit
  obtain ⟨u, hu, hcells', hflag, -⟩ := drwFlipsCoveredCells t x y n (hi ▸ hfit)
  have hcov := spriteCovers_congr (n := n) hmem hi (hreg x hx) (hreg y hy)
  have hback : ∀ p, u.fb.pixel p = s.fb.pixel p := fun p => by
    rw [Bool.eq_iff_iff, hcells', hcells, hcov]
    tauto
  have hoff : (∃ p, SpriteCovers t x y n p ∧ t.fb.pixel p = true) ↔
      ∃ p, SpriteCovers s x y n p ∧ s.fb.pixel p = false := by
    refine exists_congr fun p => ?_
    rw [hcov, hcells, ← Bool.not_eq_true]
    tauto
  refine ⟨t, u, ht, hu, Framebuffer.ext_pixel hback, ?_⟩
  rw [← hoff]
  rcases hflag with ⟨hone, hex⟩ | ⟨hzero, hex⟩
  · exact iff_of_true hone hex
  · exact iff_of_false (by rw [hzero]; decide) hex

/-! ### What the host reads (`10_state.md` R33) -/

theorem length_frame (s : State) : s.frame.length = 2048 := by
  simp [State.frame, List.length_flatMap]

/-- An entry of rows of one length laid end to end. -/
theorem getElem?_flatMap_rows {α β : Type} (f : α → List β) (w : Nat) (l : List α)
    (hw : ∀ a ∈ l, (f a).length = w) (k j : Nat) (hj : j < w) :
    (l.flatMap f)[k * w + j]? = l[k]?.bind fun a => (f a)[j]? := by
  induction l generalizing k with
  | nil => simp
  | cons a l ih =>
    have ha : (f a).length = w := hw a List.mem_cons_self
    rw [List.flatMap_cons]
    cases k with
    | zero => simp [List.getElem?_append_left, ha, hj]
    | succ k =>
      have hnext : (k + 1) * w + j - w = k * w + j := by rw [Nat.succ_mul]; omega
      have hle : w ≤ (k + 1) * w + j := by rw [Nat.succ_mul]; omega
      rw [List.getElem?_append_right (ha ▸ hle), ha, hnext,
        ih (fun b hb => hw b (List.mem_cons_of_mem a hb)), List.getElem?_cons_succ]

/-- Settles O5: the frame is 32 rows of 64 cells laid end to end. -/
theorem frameIsRowMajor : Obligations.FrameIsRowMajor := by
  intro s p
  refine ⟨length_frame s, ?_⟩
  rw [State.frame, getElem?_flatMap_rows _ 64 _ (fun row _ => row.length_toList) _ _ p.2.isLt]
  simp [Framebuffer.pixel]

/-! ### Reset (`10_state.md` R40, `70_reset_and_hazards.md` R200) -/

/-- Settles O51: every field of reset is written out, and its memory lists no cell. -/
theorem resetState : Obligations.ResetState := by
  refine ⟨rfl, rfl, rfl, fun k => Vector.getElem_replicate (nibble_lt k),
    Framebuffer.pixel_blank, rfl, rfl, rfl, rfl, rfl, rfl, fun a => ?_, fun _ => rfl⟩
  have hread : State.reset.mem.read a = (Config.glyphTable[a]?).getD 0 := rfl
  rw [hread]
  split
  · rw [List.getElem?_eq_getElem ‹_›, Option.getD_some]
  · rw [List.getElem?_eq_none (Nat.not_lt.1 ‹_›), Option.getD_none]

end Sys2Proof.Machine
